-- ==== Sys2Proof/Word.lean ====
section
/-! DEFINITION. The value types of spec/00_scope.md R6: `u8`, `u16`, `i16`, `i32` and `bytes`.
A signed value is held as its two's-complement bit pattern (R7; log 19); `BitVec.toInt` is the spec's `sext_N`
and `BitVec.toNat` its `zext_N`. -/

namespace Sys2Proof

/-- `u8` (R6). -/
abbrev Byte := BitVec 8

/-- `u16` (R6). -/
abbrev U16 := BitVec 16

/-- `i16` (R6), as its bit pattern (R7). -/
abbrev I16 := BitVec 16

/-- `i32` (R6), as its bit pattern (R7). -/
abbrev I32 := BitVec 32

/-- `bytes`: a finite sequence of `u8` (R6). -/
abbrev Bytes := List Byte

end Sys2Proof
end

