-- ==== Sys2Proof/Config.lean ====
section
/-! DEFINITION. The implementation parameters of spec/00_scope.md R4. A `fixed` parameter is a constant
here. An `OPEN` one is a field of `Params`: the machine carries a `Params` in its state and no step writes
it, so a statement over every state is a statement for every value of the parameters
(log 5, log 6). `Config.linkDraw` is the free value of the abstract link (log 8). -/

namespace Sys2Proof

/-- `MAX_PAYLOAD`: 65535 bytes (R4). -/
def Config.maxPayload : Nat := 65535

/-- `CKS_INIT_MSB` (R4). -/
def Config.cksInitMsb : Byte := 0xFF

/-- `CKS_INIT_LSB` (R4). -/
def Config.cksInitLsb : Byte := 0xFF

/-- `MAX_ATTEMPTS`: 3 (R4). -/
def Config.maxAttempts : Nat := 3

/-- `TIMEOUT_DEFAULT`, in time units (R4, R220). Nothing in the model lasts (log 22). -/
def Config.timeoutDefault : Nat := 1

/-- `TIMEOUT_EXTENDED`, in time units (R4, R220). -/
def Config.timeoutExtended : Nat := 5

/-- FREE VALUE (log 8): what the device offers to the `k`-th draw of the abstract link. A read of `n` bytes
returns the first `n` of them at the most, so any string of length 0 to `n` may come back, "under no law"
(R42, R43). Nothing can evaluate it. -/
opaque Config.linkDraw : Nat → Bytes

/-- The `OPEN` parameters of R4: the failure marker, the ten command types, the nine error codes, the unit
of the timeouts and the link's frame limit. Only `failedType` is read by a rule of the block (R32); the
`CT_*` values name rows of the opcode table; the others are carried and never read. -/
structure Params where
  failedType : I16
  ctPicPing : I16
  ctPicErase : I16
  ctPicRead : I16
  ctPicWrite : I16
  ctProgPing : I16
  ctProgConnect : I16
  ctProgDisconnect : I16
  ctProgReset : I16
  ctProgDeviceStatus : I16
  ctProgChipErase : I16
  errInvalidArgument : I32
  errAddressOutOfRange : I32
  errCommunicationFailure : I32
  errAlreadyConnected : I32
  errNotConnected : I32
  errCommandTimeout : I32
  errChecksumMismatch : I32
  errFlashWriteFailed : I32
  errFlashEraseFailed : I32
  timeUnit : Nat
  linkFrameLimit : Nat
  deriving DecidableEq, Repr

/-- The ten `CT_*` values in the order of R71. -/
def Params.commandTypes (P : Params) : List I16 :=
  [P.ctPicPing, P.ctPicErase, P.ctPicRead, P.ctPicWrite, P.ctProgPing, P.ctProgConnect,
    P.ctProgDisconnect, P.ctProgReset, P.ctProgDeviceStatus, P.ctProgChipErase]

/-- The nine `ERR_*` values in the order of R74. -/
def Params.errorCodes (P : Params) : List I32 :=
  [P.errInvalidArgument, P.errAddressOutOfRange, P.errCommunicationFailure, P.errAlreadyConnected,
    P.errNotConnected, P.errCommandTimeout, P.errChecksumMismatch, P.errFlashWriteFailed,
    P.errFlashEraseFailed]

/-- The constraints of R4 on the `OPEN` parameters, and no others: `FAILED_TYPE` negative; the `CT_*`
positive and distinct; the `ERR_*` negative and distinct; `TIME_UNIT` positive. -/
def Params.wf (P : Params) : Bool :=
  decide (P.failedType.toInt < 0)
    && P.commandTypes.all (fun t => decide (0 < t.toInt)) && decide P.commandTypes.Nodup
    && P.errorCodes.all (fun c => decide (c.toInt < 0)) && decide P.errorCodes.Nodup
    && decide (0 < P.timeUnit)

/-- The spec's reference values (R4, R71), "used in its test vectors only" (log 5). The spec has none for
the `ERR_*`, `TIME_UNIT` and `LINK_FRAME_LIMIT`: those are DESIGN CHOICE (log 6). No statement rests on any
of them. -/
def Params.reference : Params where
  failedType := 0xFFFF
  ctPicPing := 1
  ctPicErase := 2
  ctPicRead := 3
  ctPicWrite := 4
  ctProgPing := 100
  ctProgConnect := 101
  ctProgDisconnect := 102
  ctProgReset := 103
  ctProgDeviceStatus := 104
  ctProgChipErase := 105
  errInvalidArgument := 0xFFFFFFFF
  errAddressOutOfRange := 0xFFFFFFFE
  errCommunicationFailure := 0xFFFFFFFD
  errAlreadyConnected := 0xFFFFFFFC
  errNotConnected := 0xFFFFFFFB
  errCommandTimeout := 0xFFFFFFFA
  errChecksumMismatch := 0xFFFFFFF9
  errFlashWriteFailed := 0xFFFFFFF8
  errFlashEraseFailed := 0xFFFFFFF7
  timeUnit := 1
  linkFrameLimit := 65541

end Sys2Proof
end

