-- ==== Sys2Proof/Syntax.lean ====
section
/-! DEFINITION. The instructions: one constructor for each row of spec/opcode_table.json. -/

namespace Sys2Proof

/-- One constructor per row of the opcode table, in its order: the six host operations (R61), the two
reserved operation codes (R63), and the eleven wire command types (R71), which stand in bytes 0 and 1 of a
frame and act on the block when the decode of a frame that carries them ends (log 10). -/
inductive Instr where
  /-- CKS_INIT (R102). -/
  | cksInit
  /-- CKS_FEED with its data byte, `w[15:8]` (R103). -/
  | cksFeed (c : Byte)
  /-- CKS_READ (R104). -/
  | cksRead
  /-- ENCODE with the command type `w[31:16]` and the payload `PIN` (R120, R121). -/
  | encode (t : I16) (p : Bytes)
  /-- DECODE with the timeout selector `w[3]` (R122). -/
  | decode (tmo : Bool)
  /-- EXECUTE with the timeout selector `w[3]`, the command type `w[31:16]` and the payload `PIN`
  (R150). -/
  | execute (tmo : Bool) (t : I16) (p : Bytes)
  /-- `OP = 110`, with the bits above it and the payload, which may be anything (R63). -/
  | reserved6 (upper : BitVec 29) (p : Bytes)
  /-- `OP = 111`, with the bits above it and the payload, which may be anything (R63). -/
  | reserved7 (upper : BitVec 29) (p : Bytes)
  /-- A frame of type `CT_PIC_PING` (R70, R71). -/
  | ctPicPing
  /-- A frame of type `CT_PIC_ERASE` (R70, R71). -/
  | ctPicErase
  /-- A frame of type `CT_PIC_READ` (R70, R71). -/
  | ctPicRead
  /-- A frame of type `CT_PIC_WRITE` (R70, R71). -/
  | ctPicWrite
  /-- A frame of type `CT_PROG_PING` (R70, R71). -/
  | ctProgPing
  /-- A frame of type `CT_PROG_CONNECT` (R70, R71). -/
  | ctProgConnect
  /-- A frame of type `CT_PROG_DISCONNECT` (R70, R71). -/
  | ctProgDisconnect
  /-- A frame of type `CT_PROG_RESET` (R70, R71). -/
  | ctProgReset
  /-- A frame of type `CT_PROG_DEVICE_STATUS` (R70, R71). -/
  | ctProgDeviceStatus
  /-- A frame of type `CT_PROG_CHIP_ERASE` (R70, R71). -/
  | ctProgChipErase
  /-- A frame of type `FAILED_TYPE`, the failure marker (R70, R155). -/
  | failedType
  deriving DecidableEq, Repr

end Sys2Proof
end

