-- ==== Sys2Proof/WellFormed.lean ====
section
/-! DEFINITION. The well-formedness of an instruction: what its encoding can carry. -/

namespace Sys2Proof

/-- The payload limit of R66: ENCODE and EXECUTE carry at most `MAX_PAYLOAD` = 65535 bytes, which is what
the 16-bit length field of a frame can say. Every other operand is held at its own width. That a type is
positive is no matter of encoding: EXECUTE refuses `t ≤ 0` at admission (R150). -/
def Instr.wf : Instr → Bool
  | .cksInit => true
  | .cksFeed _ => true
  | .cksRead => true
  | .encode _ p => decide (p.length ≤ Config.maxPayload)
  | .decode _ => true
  | .execute _ _ p => decide (p.length ≤ Config.maxPayload)
  | .reserved6 _ _ => true
  | .reserved7 _ _ => true
  | .ctPicPing => true
  | .ctPicErase => true
  | .ctPicRead => true
  | .ctPicWrite => true
  | .ctProgPing => true
  | .ctProgConnect => true
  | .ctProgDisconnect => true
  | .ctProgReset => true
  | .ctProgDeviceStatus => true
  | .ctProgChipErase => true
  | .failedType => true

end Sys2Proof
end

