-- ==== Sys2Proof/Decode.lean ====
section
/-! DEFINITION. Decoding and encoding: the host request word (spec/30_encoding.md R60 to R66), the command
type of a wire frame (R67, R70, R71), and the encoder written from the same tables. The byte-order helpers of
spec/00_scope.md R9 stand here too. -/

namespace Sys2Proof

/-! ### Byte order (R9, R45) -/

/-- `be16`: the big-endian composition of two bytes (R9). -/
def be16 (hi lo : Byte) : U16 := hi ++ lo

/-- `be32`: the big-endian composition of four bytes (R9). -/
def be32 (b0 b1 b2 b3 : Byte) : BitVec 32 := b0 ++ b1 ++ b2 ++ b3

/-- Bits 15 to 8 of a `u16`. -/
def hiByte (v : U16) : Byte := v.extractLsb' 8 8

/-- Bits 7 to 0 of a `u16`. -/
def loByte (v : U16) : Byte := v.extractLsb' 0 8

/-- `tobe16`: the two bytes of a `u16`, the most significant first (R9). -/
def tobe16 (v : U16) : Bytes := [hiByte v, loByte v]

/-! ### The host request word (R60) -/

/-- A host request: the 32-bit request word and the payload byte string `PIN` (R60, R66). -/
structure Request where
  word : BitVec 32
  pin : Bytes
  deriving DecidableEq, Repr

/-- `TYPE = w[31:16]` (R60). -/
def typeField (w : BitVec 32) : I16 := w.extractLsb' 16 16

/-- `BYTE = w[15:8]` (R60). -/
def byteField (w : BitVec 32) : Byte := w.extractLsb' 8 8

/-- `RSV = w[7:4]` (R60). -/
def rsvField (w : BitVec 32) : BitVec 4 := w.extractLsb' 4 4

/-- `TMO = w[3]` (R60). -/
def tmoField (w : BitVec 32) : Bool := w.getLsbD 3

/-- `OP = w[2:0]` (R60). -/
def opField (w : BitVec 32) : BitVec 3 := w.extractLsb' 0 3

/-- `w[31:3]`, all that a reserved operation code leaves free. -/
def upperField (w : BitVec 32) : BitVec 29 := w.extractLsb' 3 29

/-- Why the decoder rejects a host request. -/
inductive RequestError where
  /-- `ENC_FIELD_NONZERO` (R62). -/
  | fieldNonzero
  /-- `ENC_PAYLOAD_TOO_LONG` (R66). -/
  | payloadTooLong
  deriving DecidableEq, Repr

/-- The decoder's answer to a host request: an instruction, or a rejection by name. -/
inductive Decoded where
  | instr (i : Instr)
  | rejected (e : RequestError)
  deriving DecidableEq, Repr

/-- The instruction of an answer, if it has one. -/
def Decoded.toOption : Decoded → Option Instr
  | .instr i => some i
  | .rejected _ => none

/-- Decoding a host request by the table of R61, with the checks of R62, R63 and R66 in the order of R188: a
reserved operation code first, then a non-zero unused field or an unasked-for payload, then the length. -/
def decodeRequest (w : BitVec 32) (pin : Bytes) : Decoded :=
  match (opField w).toNat with
  | 0 =>
    if typeField w = 0 ∧ byteField w = 0 ∧ rsvField w = 0 ∧ tmoField w = false ∧ pin = [] then
      .instr .cksInit
    else .rejected .fieldNonzero
  | 1 =>
    if typeField w = 0 ∧ rsvField w = 0 ∧ tmoField w = false ∧ pin = [] then
      .instr (.cksFeed (byteField w))
    else .rejected .fieldNonzero
  | 2 =>
    if typeField w = 0 ∧ byteField w = 0 ∧ rsvField w = 0 ∧ tmoField w = false ∧ pin = [] then
      .instr .cksRead
    else .rejected .fieldNonzero
  | 3 =>
    if byteField w = 0 ∧ rsvField w = 0 ∧ tmoField w = false then
      if pin.length ≤ Config.maxPayload then .instr (.encode (typeField w) pin)
      else .rejected .payloadTooLong
    else .rejected .fieldNonzero
  | 4 =>
    if typeField w = 0 ∧ byteField w = 0 ∧ rsvField w = 0 ∧ pin = [] then
      .instr (.decode (tmoField w))
    else .rejected .fieldNonzero
  | 5 =>
    if byteField w = 0 ∧ rsvField w = 0 then
      if pin.length ≤ Config.maxPayload then .instr (.execute (tmoField w) (typeField w) pin)
      else .rejected .payloadTooLong
    else .rejected .fieldNonzero
  | 6 => .instr (.reserved6 (upperField w) pin)
  | _ => .instr (.reserved7 (upperField w) pin)

/-! ### The command type of a wire frame (R67, R71) -/

/-- The instruction of the opcode table that a command type names under the parameters `P`; none where the table has no
row for the type, which is no refusal: the block acts on a frame of any type (R69, R70). The `CT_*` values are distinct
and `FAILED_TYPE` is none of them (R4), so for well-formed parameters the order of the tests does not matter. -/
def decodeWireType (P : Params) (t : I16) : Option Instr :=
  if t = P.ctPicPing then some .ctPicPing
  else if t = P.ctPicErase then some .ctPicErase
  else if t = P.ctPicRead then some .ctPicRead
  else if t = P.ctPicWrite then some .ctPicWrite
  else if t = P.ctProgPing then some .ctProgPing
  else if t = P.ctProgConnect then some .ctProgConnect
  else if t = P.ctProgDisconnect then some .ctProgDisconnect
  else if t = P.ctProgReset then some .ctProgReset
  else if t = P.ctProgDeviceStatus then some .ctProgDeviceStatus
  else if t = P.ctProgChipErase then some .ctProgChipErase
  else if t = P.failedType then some .failedType
  else none

/-- The same from frame bytes 0 and 1, high byte first (R45, R67). -/
def decodeWireBytes (P : Params) (b0 b1 : Byte) : Option Instr := decodeWireType P (be16 b0 b1)

/-! ### The encoder -/

/-- What an instruction is encoded as: a host request, or the command type of a wire frame. -/
inductive Encoded where
  | request (r : Request)
  | wireType (t : I16)
  deriving DecidableEq, Repr

/-- The request word with the given fields (R60). -/
def requestWord (t : I16) (c : Byte) (rsv : BitVec 4) (tmo : Bool) (op : BitVec 3) : BitVec 32 :=
  t ++ c ++ rsv ++ BitVec.ofBool tmo ++ op

/-- The encoding of an instruction by the tables of R61 and R71. -/
def encode (P : Params) : Instr → Encoded
  | .cksInit => .request ⟨requestWord 0 0 0 false 0, []⟩
  | .cksFeed c => .request ⟨requestWord 0 c 0 false 1, []⟩
  | .cksRead => .request ⟨requestWord 0 0 0 false 2, []⟩
  | .encode t p => .request ⟨requestWord t 0 0 false 3, p⟩
  | .decode tmo => .request ⟨requestWord 0 0 0 tmo 4, []⟩
  | .execute tmo t p => .request ⟨requestWord t 0 0 tmo 5, p⟩
  | .reserved6 upper p => .request ⟨upper ++ (6 : BitVec 3), p⟩
  | .reserved7 upper p => .request ⟨upper ++ (7 : BitVec 3), p⟩
  | .ctPicPing => .wireType P.ctPicPing
  | .ctPicErase => .wireType P.ctPicErase
  | .ctPicRead => .wireType P.ctPicRead
  | .ctPicWrite => .wireType P.ctPicWrite
  | .ctProgPing => .wireType P.ctProgPing
  | .ctProgConnect => .wireType P.ctProgConnect
  | .ctProgDisconnect => .wireType P.ctProgDisconnect
  | .ctProgReset => .wireType P.ctProgReset
  | .ctProgDeviceStatus => .wireType P.ctProgDeviceStatus
  | .ctProgChipErase => .wireType P.ctProgChipErase
  | .failedType => .wireType P.failedType

/-- Decoding either encoding. -/
def decodeEncoded (P : Params) : Encoded → Option Instr
  | .request r => (decodeRequest r.word r.pin).toOption
  | .wireType t => decodeWireType P t

/-! ### The opcode table's words -/

/-- The decoder on a row of the opcode table. The table's rows of up to 16 bits are wire command types: the
word is the 16-bit value that frame bytes 0 and 1 hold, high byte first. They are read under the spec's
reference values, which are the table's `match` values (log 16). The rows of 32 bits are host request words,
with an empty `PIN`. -/
def decodeTableWord (nbits w : Nat) : Option Instr :=
  if nbits ≤ 16 then
    decodeWireBytes Params.reference (hiByte (BitVec.ofNat 16 w)) (loByte (BitVec.ofNat 16 w))
  else (decodeRequest (BitVec.ofNat 32 w) []).toOption

end Sys2Proof
end

