-- ==== Sys2Proof/Machine/State.lean ====
section
/-! DEFINITION. The state of the machine (spec/10_state.md R20 to R36), plain data, with reset
(spec/70_reset_and_hazards.md R200), and the reasons a step can stop. -/

namespace Sys2Proof.Machine

/-- A step that stops with a fault. No rule of the spec stops the block: its one fault, `MalformedFailure`, is
an outcome that sets `COR.FAULT` and lets it go on (R183). -/
inductive Fault where
  /-- Raised by the block's turn (`blockTurn`) in a state where an operation is in progress and no unit is in
  a phase of it: a DECODE with `FRM.PHASE = IDLE`, an EXECUTE with `COR.PHASE = IDLE`, or with
  `COR.PHASE = RECV` and `FRM.PHASE = IDLE`. The spec gives these states no step (R24, R26, R165), and no run
  reaches one. Safe (log 14). -/
  | phaseMismatch
  deriving DecidableEq, Repr

/-- A refusal: the reason names of R184, under which a request has no step and changes no state. Each is the
spec's own refusal of the request, so each is as safe as the spec's reading of it (D10, D16, D18). -/
inductive Refusal where
  /-- `ENC_RESERVED_OP` (R63): raised by RESERVED_6 and RESERVED_7. -/
  | encReservedOp
  /-- `ENC_FIELD_NONZERO` (R62): raised for a request word the decoder rejects. -/
  | encFieldNonzero
  /-- `ENC_PAYLOAD_TOO_LONG` (R66): raised for a request the decoder rejects, and by ENCODE and EXECUTE on a
  payload over 65535 bytes. -/
  | encPayloadTooLong
  /-- `BLK_BUSY` (R210): raised by every host operation while one is in progress. -/
  | blkBusy
  /-- `COR_TYPE_NOT_POSITIVE` (R150): raised by EXECUTE with `t ≤ 0`. -/
  | corTypeNotPositive
  /-- `COR_DEAD` (R122, R150): raised by DECODE and EXECUTE while `COR.DEAD = 1`. -/
  | corDead
  /-- An instruction without a meaning in `exec`. Raised by no arm: every instruction has its meaning. -/
  | notModelled (mnemonic : String)
  deriving DecidableEq, Repr

/-- What a step or a meaning answers. -/
abbrev Answer (σ : Type) := Host.Outcome σ Fault Refusal

/-- The registers of CKS (R22). -/
structure Cks where
  /-- `CKS.MSB`. -/
  msb : Byte
  /-- `CKS.LSB`. -/
  lsb : Byte
  deriving DecidableEq, Repr

/-- The values of `FRM.PHASE` (R24). -/
inductive FrmPhase where
  | idle | hdr | pay | ftr
  deriving DecidableEq, Repr

/-- The registers of FRM (R24, R25). Between decodes the working registers keep what they hold (log 3). -/
structure Frm where
  /-- `FRM.PHASE`. -/
  phase : FrmPhase
  /-- `FRM.HDR`: the four header bytes. -/
  hdr : Bytes
  /-- `FRM.TYPE`. -/
  type : I16
  /-- `FRM.LEN`. -/
  len : U16
  /-- `FRM.BUF`: the payload. -/
  buf : Bytes
  /-- `FRM.FTR`: the received checksum. -/
  ftr : U16
  deriving DecidableEq, Repr

/-- The values of `COR.PHASE` (R26). -/
inductive CorPhase where
  | idle | send | recv
  deriving DecidableEq, Repr

/-- The registers of COR (R26 to R30). -/
structure Cor where
  /-- `COR.PHASE`. -/
  phase : CorPhase
  /-- `COR.ATT`, the attempt counter, 2 bits (R27). -/
  att : BitVec 2
  /-- `COR.TYPE`, the request's command type (R28). -/
  type : I16
  /-- `COR.PAY`, the request's payload (R28). -/
  pay : Bytes
  /-- `COR.TMO`, the timeout selector (R28). -/
  tmo : Bool
  /-- `COR.DEAD`, sticky: the transport is unusable (R29). -/
  dead : Bool
  /-- `COR.FAULT`, sticky: a response arrived that the source gives no meaning (R30). -/
  fault : Bool
  deriving DecidableEq, Repr

/-- `BLK.OP`, the host operation in progress (R31). A DECODE carries the timeout selector of its request
word, which no register of the spec holds and which lasts for that operation only (R64, R122; log 11). -/
inductive BlkOp where
  | none
  | decode (tmo : Bool)
  | execute
  deriving DecidableEq, Repr

/-- The two link models of R43. -/
inductive LinkModel where
  /-- Each read's bytes are a draw under no law. -/
  | abstract
  /-- A FIFO of the bytes the device has sent. -/
  | reference
  deriving DecidableEq, Repr

/-- One access the block made to the link, for the model's record of them (log 12). -/
inductive LinkAccess where
  /-- `LinkWrite(s)` (R41). -/
  | write (s : Bytes)
  /-- `LinkRead(n, t)` and the bytes it returned (R42); `t` is in time units. -/
  | read (n t : Nat) (r : Bytes)
  deriving DecidableEq, Repr

/-- The link (R35). -/
structure Link where
  /-- The link model in force (R43; log 4). -/
  model : LinkModel
  /-- `LINK.TX`: the bytes the block has written, in order. -/
  tx : Bytes
  /-- `LINK.RX`: the bytes that have arrived and that no read has consumed. Not read under the abstract
  model. -/
  rx : Bytes
  /-- The MODEL's own counter of draws under the abstract model (log 8). -/
  draws : Nat
  /-- The MODEL's own record of the accesses made, oldest first (log 12). -/
  log : List LinkAccess
  deriving DecidableEq, Repr

/-- A result record (R73): one constructor for each line of the table of R73, with the line's fields. -/
inductive Result where
  /-- `OK` of CKS_INIT and CKS_FEED: no fields. -/
  | ok
  /-- `OK` of CKS_READ: `VALUE`. -/
  | value (v : U16)
  /-- `OK` of ENCODE: `DATA` is the frame. -/
  | frame (data : Bytes)
  /-- `OK` of DECODE, `Packet(t, p)`: `TYPE` and `DATA`. -/
  | packet (t : I16) (data : Bytes)
  /-- `OK` of EXECUTE, `Ok(p)`: `DATA`. -/
  | response (data : Bytes)
  /-- `SHORT_HEADER`. -/
  | shortHeader
  /-- `SHORT_PAYLOAD`. -/
  | shortPayload
  /-- `SHORT_FOOTER`. -/
  | shortFooter
  /-- `CHECKSUM_MISMATCH`. -/
  | checksumMismatch
  /-- `DEVICE_ERROR`, `DeviceError(c)`: `CODE`. -/
  | deviceError (code : I32)
  /-- `TRANSPORT_EXHAUSTED`. -/
  | transportExhausted
  /-- `MALFORMED_FAILURE`: `DATA` is the failed response's payload. -/
  | malformedFailure (data : Bytes)
  deriving DecidableEq, Repr

/-- One turn of the world's agents (R2), by the plain data that says whose it is (log 7). -/
inductive Event where
  /-- The host issues a request: the word and `PIN` (R60). -/
  | hostRequest (w : BitVec 32) (pin : Bytes)
  /-- The device sends bytes (R43). -/
  | deviceSends (bytes : Bytes)
  /-- The block takes its next step. -/
  | blockTurn
  /-- Reset (R200, R201). -/
  | resetPulse
  deriving DecidableEq, Repr

/-- The machine's state. The block has no addressable memory, so there is none here (R40; log 23). -/
structure State where
  /-- The `OPEN` parameters (R4, R32): arguments of the machine, written by no step (log 5). -/
  params : Params
  /-- CKS (R22). -/
  cks : Cks
  /-- FRM (R24, R25). -/
  frm : Frm
  /-- COR (R26 to R30). -/
  cor : Cor
  /-- `BLK.OP` (R31). -/
  op : BlkOp
  /-- The link (R35). -/
  link : Link
  /-- The turns to come; when it is empty the block goes on by itself (log 7). -/
  agenda : List Event
  /-- The result port: the records presented, oldest first (R73; log 13). -/
  results : List Result
  /-- The refusals recorded, oldest first (R184; log 13). -/
  refusals : List Refusal
  /-- The model's record that a reset cleared `COR.FAULT` when it was 1: the run had reached its fault (R183; log 24). -/
  faultCleared : Bool
  deriving DecidableEq, Repr

/-- CKS after reset (R22, R200). -/
def Cks.reset : Cks := ⟨Config.cksInitMsb, Config.cksInitLsb⟩

/-- FRM after reset: `FRM.PHASE` by R24; the working registers, which the spec leaves unspecified, by
log 1. -/
def Frm.reset : Frm := ⟨.idle, [0, 0, 0, 0], 0, 0, [], 0⟩

/-- COR after reset: by R26, R27, R29, R30; the request registers, which the spec leaves unspecified, by
log 2. -/
def Cor.reset : Cor := ⟨.idle, 0, 0, [], false, false, false⟩

/-- The link before anything was written or read: the reference model with both streams empty (log 4). -/
def Link.fresh : Link := ⟨.reference, [], [], 0, []⟩

/-- The machine right after reset with the given parameters and link, which the block does not own and does
not reset (R35, R200). -/
def State.boot (P : Params) (L : Link) : State where
  params := P
  cks := Cks.reset
  frm := Frm.reset
  cor := Cor.reset
  op := .none
  link := L
  agenda := []
  results := []
  refusals := []
  faultCleared := false

/-- The machine right after reset (R200), with the reference parameters (log 5, log 6) and a fresh link
(log 4). -/
def State.reset : State := State.boot Params.reference Link.fresh

end Sys2Proof.Machine
end

