-- ==== Sys2Proof/Machine/Operands.lean ====
section
/-! DEFINITION. The operand forms and pure functions of the block: the checksum (spec/40_checksum.md R100,
R101), the frame (spec/30_encoding.md R67, spec/41_framer.md R121), the timeout a selector stands for (R64),
the outcome of a decode (R129, R130), and the result codes (R73). -/

namespace Sys2Proof.Machine

/-- `cks_step` on 8-bit values, where every shift truncates (R101). The pair is `(msb, lsb)`. -/
def cksStep (a : Byte × Byte) (c : Byte) : Byte × Byte :=
  let x := c ^^^ a.1
  let y := x ^^^ (x >>> 4)
  (a.2 ^^^ (y >>> 3) ^^^ (y <<< 4), y ^^^ (y <<< 5))

/-- The accumulators after the bytes of `s`, in order, from `a` (R100). -/
def cksFold (a : Byte × Byte) (s : Bytes) : Byte × Byte := s.foldl cksStep a

/-- The 16-bit value of two accumulators: `(msb << 8) | lsb` (R23). -/
def cksValue (a : Byte × Byte) : U16 := a.1 ++ a.2

/-- The pure function `checksum` (R100). -/
def checksum (s : Bytes) : U16 := cksValue (cksFold (Config.cksInitMsb, Config.cksInitLsb) s)

/-- The four header bytes of a frame: the command type, then the payload's length, big-endian (R67). -/
def frameHeader (t : I16) (p : Bytes) : Bytes := tobe16 t ++ tobe16 (BitVec.ofNat 16 p.length)

/-- `Frame(t, p)`: header, payload, then the checksum of both (R67, R68, R121). -/
def frame (t : I16) (p : Bytes) : Bytes :=
  frameHeader t p ++ p ++ tobe16 (checksum (frameHeader t p ++ p))

/-- `TIMEOUT(tsel)` in time units (R64). -/
def timeout (tsel : Bool) : Nat := if tsel then Config.timeoutExtended else Config.timeoutDefault

/-- What a decode ends with (R129, R130). -/
inductive DecodeOutcome where
  | shortHeader
  | shortPayload
  | shortFooter
  | checksumMismatch
  | packet (t : I16) (p : Bytes)
  deriving DecidableEq, Repr

/-- The record DECODE presents for an outcome (R122). -/
def DecodeOutcome.result : DecodeOutcome → Result
  | .shortHeader => .shortHeader
  | .shortPayload => .shortPayload
  | .shortFooter => .shortFooter
  | .checksumMismatch => .checksumMismatch
  | .packet t p => .packet t p

/-- `RC`, the 3-bit result code of a record (R73, R180). -/
def Result.rc : Result → BitVec 3
  | .ok => 0
  | .value _ => 0
  | .frame _ => 0
  | .packet _ _ => 0
  | .response _ => 0
  | .shortHeader => 1
  | .shortPayload => 2
  | .shortFooter => 3
  | .checksumMismatch => 4
  | .deviceError _ => 5
  | .transportExhausted => 6
  | .malformedFailure _ => 7

end Sys2Proof.Machine
end

