-- ==== Sys2Proof/Machine/Flags.lean ====
section
/-! DEFINITION. The block's status flags (spec/10_state.md R33): `BLK.BUSY`, which is derived, and the sticky
`COR.DEAD` and `COR.FAULT`; and whether the run has reached its fault (R183). The block has no condition codes. -/

namespace Sys2Proof.Machine

/-- `BLK.BUSY`: `BLK.OP ≠ NONE` (R31). -/
def State.busy (s : State) : Bool :=
  match s.op with
  | .none => false
  | .decode _ => true
  | .execute => true

/-- `COR.DEAD <- 1` (R29). -/
def State.setDead (s : State) : State := { s with cor := { s.cor with dead := true } }

/-- `COR.FAULT <- 1` (R30). -/
def State.setFault (s : State) : State := { s with cor := { s.cor with fault := true } }

/-- The run has reached `COR.FAULT = 1`: the flag stands at 1, or a reset has cleared it since (R30, R183; log 24). -/
def State.faultReached (s : State) : Bool := s.cor.fault || s.faultCleared

end Sys2Proof.Machine
end

