-- ==== Sys2Proof/Machine/Ops.lean ====
section
/-! DEFINITION. The shared operations: the link primitives (spec/20_memory.md R41 to R44), the end of an
operation (spec/00_scope.md R10 `complete`), the record of a refusal (R10 `refuse`, R184), admission
(R188, R210), and reset (spec/70_reset_and_hazards.md R200, R201). The block takes no exceptions: there is no
trap entry and no trap return (R187, R189); an error is the record that `complete` presents. -/

namespace Sys2Proof.Machine

/-! ### The link -/

/-- `LinkWrite(s)`: append the bytes to TX, first byte first (R41). -/
def Link.write (l : Link) (s : Bytes) : Link :=
  { l with tx := l.tx ++ s, log := l.log ++ [.write s] }

/-- The bytes `LinkRead(n, _)` returns (R42, R43); it always returns (R58; log 17): under the reference model the first `min(n, |RX|)` of RX;
under the abstract model a draw of length 0 to `n`. -/
def Link.readBytes (l : Link) (n : Nat) : Bytes :=
  match l.model with
  | .reference => l.rx.take n
  | .abstract => (Config.linkDraw l.draws).take n

/-- The link after `LinkRead(n, t)`: what was returned is consumed, and nothing else is (R42, R44). -/
def Link.read (l : Link) (n t : Nat) : Link :=
  match l.model with
  | .reference => { l with rx := l.rx.drop n, log := l.log ++ [.read n t (l.readBytes n)] }
  | .abstract => { l with draws := l.draws + 1, log := l.log ++ [.read n t (l.readBytes n)] }

/-- The device sends bytes: they are appended to RX (R43). -/
def Link.deliver (l : Link) (bytes : Bytes) : Link := { l with rx := l.rx ++ bytes }

/-! ### Operations begin and end -/

/-- The timeout selector of the operation in progress: DECODE's own, or `COR.TMO` (R64, R153, R159). -/
def State.tsel (s : State) : Bool :=
  match s.op with
  | .none => false
  | .decode tmo => tmo
  | .execute => s.cor.tmo

/-- `complete(result)`: present the record and end the operation in progress, `BLK.OP <- NONE` (R10, R31,
R73). -/
def State.complete (s : State) (r : Result) : State :=
  { s with op := .none, results := s.results ++ [r] }

/-- `finish(res)` of EXECUTE: `COR.PHASE <- IDLE`, then complete (R154 to R156). -/
def State.finish (s : State) (r : Result) : State :=
  ({ s with cor := { s.cor with phase := .idle } } : State).complete r

/-- The refusal `r` is recorded by the model; nothing of the block changes (R10, R184). -/
def State.recordRefusal (s : State) (r : Refusal) : State := { s with refusals := s.refusals ++ [r] }

/-- Admission of a host operation: refused with `BLK_BUSY` while one is in progress (R210). -/
def State.whenIdle (s : State) (k : Answer State) : Answer State :=
  if s.busy then .refused .blkBusy else k

/-- Admission of a link operation after `BLK_BUSY` was ruled out: refused with `COR_DEAD` while
`COR.DEAD = 1` (R29, R122, R150). -/
def State.whenAlive (s : State) (k : Answer State) : Answer State :=
  if s.cor.dead then .refused .corDead else k

/-- Admission of a payload (R66). -/
def whenPayloadFits (p : Bytes) (k : Answer State) : Answer State :=
  if p.length ≤ Config.maxPayload then k else .refused .encPayloadTooLong

/-! ### Reset -/

/-- A reset between two steps (R200, R201; log 18): every register of the block takes its reset value; the operation in
progress is abandoned without a record; the link, which the block does not own, keeps what was written and what
was consumed. That the run had reached `COR.FAULT = 1` stays recorded (R183; log 24). -/
def State.resetBlock (s : State) : State :=
  { s with
    cks := Cks.reset
    frm := Frm.reset
    cor := Cor.reset
    op := .none
    faultCleared := s.faultReached }

end Sys2Proof.Machine
end

