-- ==== Sys2Proof/Machine/Checksum.lean ====
section
/-! DEFINITION. The CKS family (spec/40_checksum.md R102 to R104). -/

namespace Sys2Proof.Machine

/-- CKS_INIT: both accumulators to `0xFF`; result OK (R102). -/
def execCksInit (s : State) : Answer State :=
  s.whenIdle (.next ({ s with cks := ⟨Config.cksInitMsb, Config.cksInitLsb⟩ }.complete .ok))

/-- CKS_FEED: one checksum step on both accumulators, from their old values; result OK (R103). -/
def execCksFeed (c : Byte) (s : State) : Answer State :=
  let a := cksStep (s.cks.msb, s.cks.lsb) c
  s.whenIdle (.next ({ s with cks := ⟨a.1, a.2⟩ }.complete .ok))

/-- CKS_READ: result OK with `VALUE = (CKS.MSB << 8) | CKS.LSB`; no state of the block changes (R104). -/
def execCksRead (s : State) : Answer State :=
  s.whenIdle (.next (s.complete (.value (cksValue (s.cks.msb, s.cks.lsb)))))

end Sys2Proof.Machine
end

