-- ==== Sys2Proof/Machine/Reserved.lean ====
section
/-! DEFINITION. The reserved operation codes (spec/30_encoding.md R63): refused with `ENC_RESERVED_OP`, whatever else
the request holds and whatever the state is (R188). -/

namespace Sys2Proof.Machine

/-- RESERVED_6: `OP = 110` (R63). -/
def execReserved6 (_ : BitVec 29) (_ : Bytes) (_ : State) : Answer State := .refused .encReservedOp

/-- RESERVED_7: `OP = 111` (R63). -/
def execReserved7 (_ : BitVec 29) (_ : Bytes) (_ : State) : Answer State := .refused .encReservedOp

end Sys2Proof.Machine
end

