-- ==== Sys2Proof/Machine/Correlator.lean ====
section
/-! DEFINITION. The COR family (spec/42_correlator.md): EXECUTE's start step, the send step, and the
classification of a decode's outcome. -/

namespace Sys2Proof.Machine

/-- EXECUTE, its start step (R150, R151): the request registers are loaded, `COR.ATT <- 0`,
`BLK.OP <- EXECUTE`, `COR.PHASE <- SEND`; no link access is made. The reasons for a refusal stand in the order
of R188. The later steps are `sendStep` and the framer's read steps. -/
def execExecute (tmo : Bool) (t : I16) (p : Bytes) (s : State) : Answer State :=
  whenPayloadFits p <| s.whenIdle <|
    if t.toInt ≤ 0 then .refused .corTypeNotPositive
    else s.whenAlive <| .next
      { s with
        cor := { s.cor with type := t, pay := p, tmo := tmo, att := 0, phase := .send }
        op := .execute }

/-- The send step (R152): count the attempt, write the request frame, and begin the decode of a response. No run counts past
3 (log 21). -/
def sendStep (s : State) : State :=
  { s with
    link := s.link.write (frame s.cor.type s.cor.pay)
    cor := { s.cor with att := s.cor.att + 1, phase := .recv }
    frm := { s.frm with phase := .hdr } }

/-- A transient outcome (R156): try again while fewer than `MAX_ATTEMPTS` were made, else
`TransportExhausted` and `COR.DEAD <- 1`. -/
def transient (s : State) : State :=
  if s.cor.att.toNat < Config.maxAttempts then { s with cor := { s.cor with phase := .send } }
  else s.setDead.finish .transportExhausted

/-- A failed response (R155): a 4-byte payload is the device's error code, big-endian (R72); any other payload is
`MalformedFailure`, which sets `COR.DEAD` and `COR.FAULT`. -/
def failedResponse (p : Bytes) (s : State) : State :=
  match p with
  | [b0, b1, b2, b3] => s.finish (.deviceError (be32 b0 b1 b2 b3))
  | _ => s.setDead.setFault.finish (.malformedFailure p)

/-- Classification of a decoded response in the order of R161: matching (R154), failed (R155), else unrelated and so
transient (R156). -/
def respond (rt : I16) (rp : Bytes) (s : State) : State :=
  if rt = s.cor.type then s.finish (.response rp)
  else if rt = s.params.failedType then failedResponse rp s
  else transient s

end Sys2Proof.Machine
end

