-- ==== Sys2Proof/Machine/Framer.lean ====
section
/-! DEFINITION. The FRM family (spec/41_framer.md): ENCODE, DECODE's start step, the three read steps of
`decode_frame`, which DECODE and EXECUTE share, and the end of a decode. -/

namespace Sys2Proof.Machine

/-- ENCODE: result OK with the frame; nothing is written to the link and no block state changes (R120, R121). Every
command type is admitted, and `COR.DEAD` does not block it. -/
def execEncode (t : I16) (p : Bytes) (s : State) : Answer State :=
  whenPayloadFits p <| s.whenIdle <| .next (s.complete (.frame (frame t p)))

/-- DECODE, its start step: `BLK.OP <- DECODE`, `FRM.PHASE <- HDR` (R122). The later steps are the read steps
below. -/
def execDecode (tmo : Bool) (s : State) : Answer State :=
  s.whenIdle <| s.whenAlive <| .next
    { s with op := .decode tmo, frm := { s.frm with phase := .hdr } }

/-- Header phase (R123) and header parse (R124). The first part of the answer is the decode's outcome, if it
ended. -/
def headerStep (s : State) : Option DecodeOutcome × State :=
  let l := s.link.read 4 (timeout s.tsel)
  match s.link.readBytes 4 with
  | [b0, b1, b2, b3] =>
    if be16 b2 b3 = 0 then
      (none, { s with
        link := l
        frm := { s.frm with hdr := [b0, b1, b2, b3], type := be16 b0 b1, len := be16 b2 b3, buf := [], phase := .ftr } })
    else
      (none, { s with
        link := l
        frm := { s.frm with hdr := [b0, b1, b2, b3], type := be16 b0 b1, len := be16 b2 b3, phase := .pay } })
  | _ => (some .shortHeader, { s with link := l, frm := { s.frm with phase := .idle } })

/-- Payload phase (R125). -/
def payloadStep (s : State) : Option DecodeOutcome × State :=
  let p := s.link.readBytes s.frm.len.toNat
  let l := s.link.read s.frm.len.toNat (timeout s.tsel)
  if p.length < s.frm.len.toNat then
    (some .shortPayload, { s with link := l, frm := { s.frm with phase := .idle } })
  else (none, { s with link := l, frm := { s.frm with buf := p, phase := .ftr } })

/-- Footer phase (R126) and checksum check (R127). -/
def footerStep (s : State) : Option DecodeOutcome × State :=
  let l := s.link.read 2 (timeout s.tsel)
  match s.link.readBytes 2 with
  | [b0, b1] =>
    let s' := { s with link := l, frm := { s.frm with ftr := be16 b0 b1, phase := .idle } }
    if be16 b0 b1 = checksum (s.frm.hdr ++ s.frm.buf) then (some (.packet s.frm.type s.frm.buf), s')
    else (some .checksumMismatch, s')
  | _ => (some .shortFooter, { s with link := l, frm := { s.frm with phase := .idle } })

/-- The next read step of the decode in progress, by `FRM.PHASE` (R123 to R127); none outside a decode (R24). -/
def readStep (s : State) : Option (Option DecodeOutcome × State) :=
  match s.frm.phase with
  | .idle => none
  | .hdr => some (headerStep s)
  | .pay => some (payloadStep s)
  | .ftr => some (footerStep s)

/-- The end of a decode. In a DECODE its outcome is the result (R122, R129). In an EXECUTE a packet is classified
and a decode failure is a transient outcome (R153 to R156). With no operation in progress there is no decode to end
and nothing changes (log 10). -/
def endDecode (o : DecodeOutcome) (s : State) : State :=
  match s.op with
  | .none => s
  | .decode _ => s.complete o.result
  | .execute =>
    match o with
    | .packet rt rp => respond rt rp s
    | .shortHeader => transient s
    | .shortPayload => transient s
    | .shortFooter => transient s
    | .checksumMismatch => transient s

end Sys2Proof.Machine
end

