-- ==== Sys2Proof/Machine/Wire.lean ====
section
/-! DEFINITION. The wire command types (spec/30_encoding.md R70, R71): what the block does when the decode of a frame
of that type ends. The payload is in `FRM.BUF` (R127). The block interprets no `CT_*` value: each meaning hands the
type to the one shared operation, which presents the packet (DECODE, R122) or classifies it (EXECUTE, R154 to
R156). -/

namespace Sys2Proof.Machine

/-- The decode in progress ends with a packet of type `t` and the payload read. -/
def receive (t : I16) (s : State) : Answer State := .next (endDecode (.packet t s.frm.buf) s)

/-- A frame of type `CT_PIC_PING` was decoded. -/
def execCtPicPing (s : State) : Answer State := receive s.params.ctPicPing s

/-- A frame of type `CT_PIC_ERASE` was decoded. -/
def execCtPicErase (s : State) : Answer State := receive s.params.ctPicErase s

/-- A frame of type `CT_PIC_READ` was decoded. -/
def execCtPicRead (s : State) : Answer State := receive s.params.ctPicRead s

/-- A frame of type `CT_PIC_WRITE` was decoded. -/
def execCtPicWrite (s : State) : Answer State := receive s.params.ctPicWrite s

/-- A frame of type `CT_PROG_PING` was decoded. -/
def execCtProgPing (s : State) : Answer State := receive s.params.ctProgPing s

/-- A frame of type `CT_PROG_CONNECT` was decoded. -/
def execCtProgConnect (s : State) : Answer State := receive s.params.ctProgConnect s

/-- A frame of type `CT_PROG_DISCONNECT` was decoded. -/
def execCtProgDisconnect (s : State) : Answer State := receive s.params.ctProgDisconnect s

/-- A frame of type `CT_PROG_RESET` was decoded. -/
def execCtProgReset (s : State) : Answer State := receive s.params.ctProgReset s

/-- A frame of type `CT_PROG_DEVICE_STATUS` was decoded. -/
def execCtProgDeviceStatus (s : State) : Answer State := receive s.params.ctProgDeviceStatus s

/-- A frame of type `CT_PROG_CHIP_ERASE` was decoded. -/
def execCtProgChipErase (s : State) : Answer State := receive s.params.ctProgChipErase s

/-- A frame of type `FAILED_TYPE` was decoded: in an EXECUTE, `DeviceError` or `MalformedFailure` (R155). -/
def execFailedType (s : State) : Answer State := receive s.params.failedType s

end Sys2Proof.Machine
end

