-- ==== Sys2Proof/Machine/Dispatch.lean ====
section
/-! DEFINITION. `exec`: one arm per instruction, each one call of its meaning. -/

namespace Sys2Proof.Machine

/-- The effect of an instruction. -/
def exec (i : Instr) (s : State) : Host.Outcome State Fault Refusal :=
  match i with
  | .cksInit => Sys2Proof.Machine.execCksInit s
  | .cksFeed c => Sys2Proof.Machine.execCksFeed c s
  | .cksRead => Sys2Proof.Machine.execCksRead s
  | .encode t p => Sys2Proof.Machine.execEncode t p s
  | .decode tmo => Sys2Proof.Machine.execDecode tmo s
  | .execute tmo t p => Sys2Proof.Machine.execExecute tmo t p s
  | .reserved6 upper p => Sys2Proof.Machine.execReserved6 upper p s
  | .reserved7 upper p => Sys2Proof.Machine.execReserved7 upper p s
  | .ctPicPing => Sys2Proof.Machine.execCtPicPing s
  | .ctPicErase => Sys2Proof.Machine.execCtPicErase s
  | .ctPicRead => Sys2Proof.Machine.execCtPicRead s
  | .ctPicWrite => Sys2Proof.Machine.execCtPicWrite s
  | .ctProgPing => Sys2Proof.Machine.execCtProgPing s
  | .ctProgConnect => Sys2Proof.Machine.execCtProgConnect s
  | .ctProgDisconnect => Sys2Proof.Machine.execCtProgDisconnect s
  | .ctProgReset => Sys2Proof.Machine.execCtProgReset s
  | .ctProgDeviceStatus => Sys2Proof.Machine.execCtProgDeviceStatus s
  | .ctProgChipErase => Sys2Proof.Machine.execCtProgChipErase s
  | .failedType => Sys2Proof.Machine.execFailedType s

end Sys2Proof.Machine
end

