-- ==== Sys2Proof/Machine/Run.lean ====
section
/-! DEFINITION. The turns of the machine: the host's request at the port, the device's bytes, the reset pulse, and the
block's own next step (spec/92_eei_decisions.md D32). `Step.lean` only calls `takeTurn`. -/

namespace Sys2Proof.Machine

/-- The reason name under which a request the decoder rejects is refused (R62, R66). -/
def refusalOf : RequestError → Refusal
  | .fieldNonzero => .encFieldNonzero
  | .payloadTooLong => .encPayloadTooLong

/-- A refused request has no step: the model records the reason and the machine stands as it did (R184; log 9). -/
def settleRequest (s : State) : Answer State → Answer State
  | .next t => .next t
  | .fault f => .fault f
  | .refused r => .next (s.recordRefusal r)

/-- The host's request at the port: decoded, then run; refused under its reason name (R60, R184, R188). -/
def hostTurn (w : BitVec 32) (pin : Bytes) (s : State) : Answer State :=
  match decodeRequest w pin with
  | .instr i => settleRequest s (exec i s)
  | .rejected e => .next (s.recordRefusal (refusalOf e))

/-- The end of a decode, in the step that ended it (R153): a packet whose command type the opcode table names runs that
row's instruction; every other outcome, and a packet of any other type, ends the decode directly (R70). -/
def finishDecode (o : DecodeOutcome) (s : State) : Answer State :=
  match o with
  | .packet rt _ =>
    match decodeWireType s.params rt with
    | some i => exec i s
    | none => .next (endDecode o s)
  | .shortHeader => .next (endDecode o s)
  | .shortPayload => .next (endDecode o s)
  | .shortFooter => .next (endDecode o s)
  | .checksumMismatch => .next (endDecode o s)

/-- The decode in progress takes its next read step, which goes on to the next phase or ends the decode (R153). -/
def readTurn (s : State) : Answer State :=
  match readStep s with
  | none => .fault .phaseMismatch
  | some (none, s') => .next s'
  | some (some o, s') => finishDecode o s'

/-- The block's next step: none while it waits for a request (R200), the decode's next read, or EXECUTE's next
transition (R165). -/
def blockTurn (s : State) : Answer State :=
  match s.op with
  | .none => .next s
  | .decode _ => readTurn s
  | .execute =>
    match s.cor.phase with
    | .idle => .fault .phaseMismatch
    | .send => .next (sendStep s)
    | .recv => readTurn s

/-- One turn: the agenda's first event, or the block's own next step when the agenda is empty (R2, R43, R52; log 7). -/
def takeTurn (s : State) : Answer State :=
  match s.agenda with
  | [] => blockTurn s
  | .hostRequest w pin :: rest => hostTurn w pin { s with agenda := rest }
  | .deviceSends bytes :: rest => .next { s with agenda := rest, link := s.link.deliver bytes }
  | .blockTurn :: rest => blockTurn { s with agenda := rest }
  | .resetPulse :: rest => .next ({ s with agenda := rest } : State).resetBlock

/-- The request `(w, pin)` is the next thing the machine meets. -/
def State.withRequest (s : State) (w : BitVec 32) (pin : Bytes) : State :=
  { s with agenda := .hostRequest w pin :: s.agenda }

/-- The block's own next step reads the footer of a frame with an empty payload and the command type `t`, in a DECODE:
the step in which the block acts on that type (log 15). -/
def State.withWireType (s : State) (t : I16) : State :=
  { s with
    op := .decode false
    frm := { s.frm with phase := .ftr, hdr := frameHeader t [], type := t, len := 0, buf := [] }
    link := { s.link with
      model := .reference
      rx := tobe16 (checksum (frameHeader t [])) ++ s.link.rx }
    agenda := .blockTurn :: s.agenda }

end Sys2Proof.Machine
end

