-- ==== Sys2Proof/Machine/Step.lean ====
section
/-! DEFINITION. One step of the machine, and the placing of an instruction where the next step meets it. -/

namespace Sys2Proof.Machine

/-- One step: one turn of one agent. -/
def step (s : State) : Host.Outcome State Fault Refusal := takeTurn s

/-- `s` with the opcode table's word `w` of `nbits` bits where the next step meets it (log 15): a host request word at
the head of the agenda, with an empty `PIN`; a wire command type in the header of a frame whose decode the next step
ends. -/
def State.withFetchWord (s : State) (nbits w : Nat) : State :=
  if nbits ≤ 16 then s.withWireType (BitVec.ofNat 16 w) else s.withRequest (BitVec.ofNat 32 w) []

end Sys2Proof.Machine
end

