-- ==== Sys2Proof/Machine/Assembler.lean ====
section
/-! DEFINITION. The one-line syntax of spec/30_encoding.md R75 and the CHECKSUM pseudo-operation of R76: a line of text is
parsed, and assembles to host requests. Text is a list of characters. -/

namespace Sys2Proof.Machine

/-- The parameter names a `type` operand may be (R75). -/
inductive TypeName where
  | ctPicPing | ctPicErase | ctPicRead | ctPicWrite | ctProgPing | ctProgConnect | ctProgDisconnect
  | ctProgReset | ctProgDeviceStatus | ctProgChipErase | failedType
  deriving DecidableEq, Repr

/-- The value of a parameter name. -/
def TypeName.value (P : Params) : TypeName → I16
  | .ctPicPing => P.ctPicPing
  | .ctPicErase => P.ctPicErase
  | .ctPicRead => P.ctPicRead
  | .ctPicWrite => P.ctPicWrite
  | .ctProgPing => P.ctProgPing
  | .ctProgConnect => P.ctProgConnect
  | .ctProgDisconnect => P.ctProgDisconnect
  | .ctProgReset => P.ctProgReset
  | .ctProgDeviceStatus => P.ctProgDeviceStatus
  | .ctProgChipErase => P.ctProgChipErase
  | .failedType => P.failedType

/-- A `type` operand: a value, written in decimal or as a 16-bit pattern, or a parameter name (R75). -/
inductive TypeOperand where
  | literal (t : I16)
  | name (n : TypeName)
  deriving DecidableEq, Repr

/-- The command type an operand stands for. -/
def TypeOperand.value (P : Params) : TypeOperand → I16
  | .literal t => t
  | .name n => n.value P

/-- A line (R75). -/
inductive Line where
  | cksInit
  | cksFeed (c : Byte)
  | cksRead
  | encode (t : TypeOperand) (p : Bytes)
  | decode (ext : Bool)
  | execute (ext : Bool) (t : TypeOperand) (p : Bytes)
  | checksum (p : Bytes)
  deriving DecidableEq, Repr

/-- The expansion of `CHECKSUM [b0 … b(n-1)]`: CKS_INIT, CKS_FEED of each byte in order, CKS_READ (R76). -/
def checksumRequests (p : Bytes) : List Request :=
  [⟨requestWord 0 0 0 false 0, []⟩] ++ p.map (fun c => ⟨requestWord 0 c 0 false 1, []⟩)
    ++ [⟨requestWord 0 0 0 false 2, []⟩]

/-- The requests a line assembles to: one request word and its `PIN`, or the expansion of the pseudo-operation (R75,
R76). `.EXT` sets `TMO`. -/
def Line.assemble (P : Params) : Line → List Request
  | .cksInit => [⟨requestWord 0 0 0 false 0, []⟩]
  | .cksFeed c => [⟨requestWord 0 c 0 false 1, []⟩]
  | .cksRead => [⟨requestWord 0 0 0 false 2, []⟩]
  | .encode t p => [⟨requestWord (t.value P) 0 0 false 3, p⟩]
  | .decode ext => [⟨requestWord 0 0 0 ext 4, []⟩]
  | .execute ext t p => [⟨requestWord (t.value P) 0 0 ext 5, p⟩]
  | .checksum p => checksumRequests p

/-- Requests as turns of the host. -/
def hostRequests (rs : List Request) : List Event := rs.map (fun r => .hostRequest r.word r.pin)

/-! ### The parser -/

/-- The value of a hexadecimal digit, of either case (DESIGN CHOICE, log 20). -/
def hexDigit (c : Char) : Option Nat :=
  if '0' ≤ c ∧ c ≤ '9' then some (c.toNat - 48)
  else if 'A' ≤ c ∧ c ≤ 'F' then some (c.toNat - 55)
  else if 'a' ≤ c ∧ c ≤ 'f' then some (c.toNat - 87)
  else none

/-- The value of a hexadecimal numeral, most significant digit first, from the digits before it. -/
def hexNumeral (acc : Nat) : List Char → Option Nat
  | [] => some acc
  | c :: cs =>
    match hexDigit c with
    | some d => hexNumeral (acc * 16 + d) cs
    | none => none

/-- The value of a decimal numeral, from the digits before it. -/
def decNumeral (acc : Nat) : List Char → Option Nat
  | [] => some acc
  | c :: cs => if '0' ≤ c ∧ c ≤ '9' then decNumeral (acc * 10 + (c.toNat - 48)) cs else none

/-- Blanks on both sides are dropped; the one blank is the space character, so that a tab is refused wherever it stands before the
comment (DESIGN CHOICE, log 20). -/
def trim (cs : List Char) : List Char :=
  ((cs.dropWhile (· == ' ')).reverse.dropWhile (· == ' ')).reverse

/-- The bytes between `[` and `]`: pairs of digits separated by spaces (R75). Two pairs are separated by one space or more, and spaces
may stand just inside the brackets as well (DESIGN CHOICE, log 20). -/
def hexPairs : List Char → Option Bytes
  | [] => some []
  | ' ' :: cs => hexPairs cs
  | a :: b :: [] =>
    match hexDigit a, hexDigit b with
    | some h, some l => some [BitVec.ofNat 8 (h * 16 + l)]
    | _, _ => none
  | a :: b :: ' ' :: cs =>
    match hexDigit a, hexDigit b, hexPairs cs with
    | some h, some l, some rest => some (BitVec.ofNat 8 (h * 16 + l) :: rest)
    | _, _, _ => none
  | _ => none

/-- `bytes := '[' … ']'` (R75), blanks around it dropped (DESIGN CHOICE, log 20). -/
def parseBytes (cs : List Char) : Option Bytes :=
  match trim cs with
  | '[' :: rest =>
    match rest.reverse with
    | ']' :: inside => hexPairs inside.reverse
    | _ => none
  | _ => none

/-- `byte := '0x'` and 2 hexadecimal digits (R75), blanks around it dropped (DESIGN CHOICE, log 20). -/
def parseByte (cs : List Char) : Option Byte :=
  match trim cs with
  | '0' :: 'x' :: a :: b :: [] => (hexNumeral 0 [a, b]).map (BitVec.ofNat 8)
  | _ => none

/-- The parameter names as they are written (R4, R75). -/
def typeNames : List (List Char × TypeName) :=
  [(['C', 'T', '_', 'P', 'I', 'C', '_', 'P', 'I', 'N', 'G'], .ctPicPing),
   (['C', 'T', '_', 'P', 'I', 'C', '_', 'E', 'R', 'A', 'S', 'E'], .ctPicErase),
   (['C', 'T', '_', 'P', 'I', 'C', '_', 'R', 'E', 'A', 'D'], .ctPicRead),
   (['C', 'T', '_', 'P', 'I', 'C', '_', 'W', 'R', 'I', 'T', 'E'], .ctPicWrite),
   (['C', 'T', '_', 'P', 'R', 'O', 'G', '_', 'P', 'I', 'N', 'G'], .ctProgPing),
   (['C', 'T', '_', 'P', 'R', 'O', 'G', '_', 'C', 'O', 'N', 'N', 'E', 'C', 'T'], .ctProgConnect),
   (['C', 'T', '_', 'P', 'R', 'O', 'G', '_', 'D', 'I', 'S', 'C', 'O', 'N', 'N', 'E', 'C', 'T'],
    .ctProgDisconnect),
   (['C', 'T', '_', 'P', 'R', 'O', 'G', '_', 'R', 'E', 'S', 'E', 'T'], .ctProgReset),
   (['C', 'T', '_', 'P', 'R', 'O', 'G', '_', 'D', 'E', 'V', 'I', 'C', 'E', '_', 'S', 'T', 'A', 'T', 'U', 'S'],
    .ctProgDeviceStatus),
   (['C', 'T', '_', 'P', 'R', 'O', 'G', '_', 'C', 'H', 'I', 'P', '_', 'E', 'R', 'A', 'S', 'E'],
    .ctProgChipErase),
   (['F', 'A', 'I', 'L', 'E', 'D', '_', 'T', 'Y', 'P', 'E'], .failedType)]

/-- `type`: a 16-bit pattern, a signed decimal in −32768..32767, or a parameter name (R75). A signed decimal is digits, with a `-`
straight before them or none: a `+` is refused, and leading zeros and `-0` are taken (DESIGN CHOICE, log 20). -/
def parseType (cs : List Char) : Option TypeOperand :=
  match trim cs with
  | '0' :: 'x' :: a :: b :: c :: d :: [] =>
    (hexNumeral 0 [a, b, c, d]).map (fun n => .literal (BitVec.ofNat 16 n))
  | '-' :: c :: rest =>
    match decNumeral 0 (c :: rest) with
    | some n => if n ≤ 32768 then some (.literal (BitVec.ofInt 16 (-(n : Int)))) else none
    | none => none
  | [] => none
  | c :: rest =>
    match decNumeral 0 (c :: rest) with
    | some n => if n ≤ 32767 then some (.literal (BitVec.ofNat 16 n)) else none
    | none => (typeNames.lookup (c :: rest)).map .name

/-- `type ',' bytes` (R75), blanks on both sides of the comma dropped or none (DESIGN CHOICE, log 20). -/
def parseTypeBytes (cs : List Char) : Option (TypeOperand × Bytes) :=
  match cs.dropWhile (· != ',') with
  | ',' :: rest =>
    match parseType (cs.takeWhile (· != ',')), parseBytes rest with
    | some t, some p => some (t, p)
    | _, _ => none
  | _ => none

/-- The operation names of R75; the flag is the `.EXT` suffix. -/
inductive OpName where
  | cksInit | cksFeed | cksRead | encode
  | decode (ext : Bool)
  | execute (ext : Bool)
  | checksum
  deriving DecidableEq, Repr

/-- The operation names as they are written (R75). -/
def opNames : List (List Char × OpName) :=
  [(['C', 'K', 'S', '_', 'I', 'N', 'I', 'T'], .cksInit),
   (['C', 'K', 'S', '_', 'F', 'E', 'E', 'D'], .cksFeed),
   (['C', 'K', 'S', '_', 'R', 'E', 'A', 'D'], .cksRead),
   (['E', 'N', 'C', 'O', 'D', 'E'], .encode),
   (['D', 'E', 'C', 'O', 'D', 'E'], .decode false),
   (['D', 'E', 'C', 'O', 'D', 'E', '.', 'E', 'X', 'T'], .decode true),
   (['E', 'X', 'E', 'C', 'U', 'T', 'E'], .execute false),
   (['E', 'X', 'E', 'C', 'U', 'T', 'E', '.', 'E', 'X', 'T'], .execute true),
   (['C', 'H', 'E', 'C', 'K', 'S', 'U', 'M'], .checksum)]

/-- The operands of an operation. -/
def parseOperands (op : OpName) (cs : List Char) : Option Line :=
  match op with
  | .cksInit => if trim cs = [] then some .cksInit else none
  | .cksFeed => (parseByte cs).map .cksFeed
  | .cksRead => if trim cs = [] then some .cksRead else none
  | .encode => (parseTypeBytes cs).map (fun tp => .encode tp.1 tp.2)
  | .decode ext => if trim cs = [] then some (.decode ext) else none
  | .execute ext => (parseTypeBytes cs).map (fun tp => .execute ext tp.1 tp.2)
  | .checksum => (parseBytes cs).map .checksum

/-- `line := op [ ';' comment ]` (R75). At least one space stands between an operation's name and its operand, so that `CHECKSUM[00]`
is refused; spaces may stand before the name, around the comma and before the comment, and the first semicolon begins the comment
(DESIGN CHOICE, log 20). -/
def parseLine (cs : List Char) : Option Line :=
  let text := trim (cs.takeWhile (· != ';'))
  match opNames.lookup (text.takeWhile (· != ' ')) with
  | some op => parseOperands op (text.dropWhile (· != ' '))
  | none => none

end Sys2Proof.Machine
end

