-- ==== Sys2Proof/Safety.lean ====
section
/-! DEFINITION. What counts as a good run, the invariant of the machine, and the pure descriptions that claims compare
the machine with. -/

namespace Sys2Proof.Machine

/-! ### Good runs -/

/-- The run that ends in `s` never reached `COR.FAULT = 1` and had no request refused: the two premises of a claim about a run. A run
that reaches the fault refutes the claim (R183), so one that a reset cleared counts as well (log 24); a refusal is recorded for the
whole run (R184). -/
def State.good (s : State) : Bool := !s.faultReached && decide (s.refusals = [])

/-- `n` turns of the machine, stopping at a fault or a refusal: `Host.Core.run` of the core (`runTurns_eq_run`). -/
def runTurns : Nat → State → Answer State
  | 0, s => .next s
  | n + 1, s =>
    match step s with
    | .next t => runTurns n t
    | .fault f => .fault f
    | .refused r => .refused r

/-! ### The invariant -/

/-- What FRM's registers say of each other in each phase (R24, R124, R125): past the header the four bytes read are in
`FRM.HDR` and give `FRM.TYPE` and `FRM.LEN`; in PAY a payload is expected; in FTR all of it was read. -/
def Frm.consistent (f : Frm) : Bool :=
  match f.phase with
  | .idle => true
  | .hdr => true
  | .pay => decide (f.hdr = tobe16 f.type ++ tobe16 f.len) && decide (f.len ≠ 0)
  | .ftr => decide (f.hdr = tobe16 f.type ++ tobe16 f.len) && decide (f.buf.length = f.len.toNat)

/-- What the phases and the attempt counter say of each other by the operation in progress (R24, R26, R27, R31, R165). -/
def State.phasesAgree (s : State) : Bool :=
  match s.op with
  | .none => decide (s.frm.phase = .idle) && decide (s.cor.phase = .idle)
  | .decode _ => decide (s.frm.phase ≠ .idle) && decide (s.cor.phase = .idle) && !s.cor.dead
  | .execute =>
    !s.cor.dead && decide (0 < s.cor.type.toInt) && decide (s.cor.pay.length ≤ Config.maxPayload)
      && match s.cor.phase with
        | .idle => false
        | .send => decide (s.frm.phase = .idle) && decide (s.cor.att.toNat < Config.maxAttempts)
        | .recv => decide (s.frm.phase ≠ .idle) && decide (1 ≤ s.cor.att.toNat)

/-- The invariant: the parameters meet the constraints of R4, the phases agree, FRM's registers agree with its phase, and
a recorded fault has made the transport unusable (R30, R155). -/
def State.inv (s : State) : Bool :=
  s.params.wf && s.phasesAgree && s.frm.consistent && (!s.cor.fault || s.cor.dead)

/-! ### Pure descriptions -/

/-- `cks_step` as R101 writes it: on unbounded numbers, masked where the rule masks (R8). -/
def cksStepNat (msb lsb c : Nat) : Nat × Nat :=
  let x := (c ^^^ msb) &&& 0xFF
  let y := (x ^^^ (x >>> 4)) &&& 0xFF
  ((lsb ^^^ (y >>> 3) ^^^ (y <<< 4)) &&& 0xFF, (y ^^^ (y <<< 5)) &&& 0xFF)

/-- One bit of the bitwise CRC with polynomial `0x1021`, most significant bit first (R107). -/
def crcBit (crc : U16) : U16 := if crc.msb then (crc <<< 1) ^^^ 0x1021 else crc <<< 1

/-- One byte of the bitwise CRC (R107): the byte enters at the top, then eight bit steps. -/
def crcByte (crc : U16) (c : Byte) : U16 :=
  Nat.repeat crcBit 8 (crc ^^^ (c ++ (0 : Byte)))

/-- The bitwise CRC of R107: initial register `0xFFFF`, no reflection, no final XOR. -/
def crcBitwise (s : Bytes) : U16 := s.foldl crcByte 0xFFFF

/-- `decode_frame` on the bytes of a reference link to which nothing more arrives (R123 to R128): the outcome, and the
bytes that stay. -/
def decodeFrame (rx : Bytes) : DecodeOutcome × Bytes :=
  match rx with
  | b0 :: b1 :: b2 :: b3 :: rest =>
    let len := (be16 b2 b3).toNat
    if rest.length < len then (.shortPayload, [])
    else
      match rest.drop len with
      | f0 :: f1 :: left =>
        if be16 f0 f1 = checksum ([b0, b1, b2, b3] ++ rest.take len) then
          (.packet (be16 b0 b1) (rest.take len), left)
        else (.checksumMismatch, left)
      | _ => (.shortFooter, [])
  | _ => (.shortHeader, [])

/-- What EXECUTE answers to a decode's outcome, by the table of R165: the result it completes with, or none where the
outcome is transient (R154 to R156, R161). -/
def verdict (P : Params) (t : I16) : DecodeOutcome → Option Result
  | .shortHeader => none
  | .shortPayload => none
  | .shortFooter => none
  | .checksumMismatch => none
  | .packet rt rp =>
    if rt = t then some (.response rp)
    else if rt = P.failedType then
      if rp.length = 4 then
        some (.deviceError (be32 (rp.getD 0 0) (rp.getD 1 0) (rp.getD 2 0) (rp.getD 3 0)))
      else some (.malformedFailure rp)
    else none

/-- EXECUTE with `left` attempts still allowed, on a reference link to which nothing more arrives (R165): its result, the
number of frames sent, and the bytes that stay. -/
def executeOn (P : Params) (t : I16) : Nat → Bytes → Result × Nat × Bytes
  | 0, rx => (.transportExhausted, 0, rx)
  | left + 1, rx =>
    match verdict P t (decodeFrame rx).1 with
    | some r => (r, 1, (decodeFrame rx).2)
    | none =>
      let (r, n, rx') := executeOn P t left (decodeFrame rx).2
      (r, n + 1, rx')

/-- The first refusal reason that applies to a request, in the order of R188, from the fields of R60 and R61, or none. -/
def refusalReason (s : State) (w : BitVec 32) (pin : Bytes) : Option Refusal :=
  let op := (opField w).toNat
  let takesPayload := op = 3 ∨ op = 5
  if op = 6 ∨ op = 7 then some .encReservedOp
  else if rsvField w ≠ 0 ∨ (typeField w ≠ 0 ∧ ¬takesPayload) ∨ (byteField w ≠ 0 ∧ op ≠ 1)
      ∨ (tmoField w = true ∧ ¬(op = 4 ∨ op = 5)) ∨ (pin ≠ [] ∧ ¬takesPayload) then some .encFieldNonzero
  else if Config.maxPayload < pin.length then some .encPayloadTooLong
  else if s.busy then some .blkBusy
  else if op = 5 ∧ (typeField w).toInt ≤ 0 then some .corTypeNotPositive
  else if (op = 4 ∨ op = 5) ∧ s.cor.dead = true then some .corDead
  else none

/-- The command type a wire row stands for under the parameters `P`; none for a host operation. -/
def wireTypeOf (P : Params) : Instr → Option I16
  | .cksInit => none
  | .cksFeed _ => none
  | .cksRead => none
  | .encode _ _ => none
  | .decode _ => none
  | .execute _ _ _ => none
  | .reserved6 _ _ => none
  | .reserved7 _ _ => none
  | .ctPicPing => some P.ctPicPing
  | .ctPicErase => some P.ctPicErase
  | .ctPicRead => some P.ctPicRead
  | .ctPicWrite => some P.ctPicWrite
  | .ctProgPing => some P.ctProgPing
  | .ctProgConnect => some P.ctProgConnect
  | .ctProgDisconnect => some P.ctProgDisconnect
  | .ctProgReset => some P.ctProgReset
  | .ctProgDeviceStatus => some P.ctProgDeviceStatus
  | .ctProgChipErase => some P.ctProgChipErase
  | .failedType => some P.failedType

/-- The instructions a line of text stands for (R75, R76). -/
def lineInstrs (P : Params) : Line → List Instr
  | .cksInit => [.cksInit]
  | .cksFeed c => [.cksFeed c]
  | .cksRead => [.cksRead]
  | .encode t p => [.encode (t.value P) p]
  | .decode ext => [.decode ext]
  | .execute ext t p => [.execute ext (t.value P) p]
  | .checksum p => [.cksInit] ++ p.map .cksFeed ++ [.cksRead]

/-- The payload a line gives to an operation that takes one. -/
def linePayload : Line → Bytes
  | .cksInit => []
  | .cksFeed _ => []
  | .cksRead => []
  | .encode _ p => p
  | .decode _ => []
  | .execute _ _ p => p
  | .checksum _ => []

/-- The bytes the turn about to be taken adds to RX: those of a device's turn. -/
def State.arriving (s : State) : Bytes :=
  match s.agenda with
  | [] => []
  | .hostRequest _ _ :: _ => []
  | .deviceSends bytes :: _ => bytes
  | .blockTurn :: _ => []
  | .resetPulse :: _ => []

/-- The turn about to be taken is the block's own. -/
def State.blockMoves (s : State) : Bool :=
  match s.agenda with
  | [] => true
  | .hostRequest _ _ :: _ => false
  | .deviceSends _ :: _ => false
  | .blockTurn :: _ => true
  | .resetPulse :: _ => false

/-- The turn about to be taken is a reset. -/
def State.resetComes (s : State) : Bool :=
  match s.agenda with
  | [] => false
  | .hostRequest _ _ :: _ => false
  | .deviceSends _ :: _ => false
  | .blockTurn :: _ => false
  | .resetPulse :: _ => true

/-- A decode is in progress, in a DECODE or in the receive phase of an EXECUTE (R24). -/
def State.decoding (s : State) : Bool :=
  match s.op with
  | .none => false
  | .decode _ => true
  | .execute => decide (s.cor.phase = .recv)

/-- From `s`, in at most three turns, the DECODE in progress completes with the outcome `o`, and the bytes `left` stay on
RX. -/
def State.decodesTo (s : State) (o : DecodeOutcome) (left : Bytes) : Prop :=
  ∃ k s', k ≤ 3 ∧ runTurns k s = .next s' ∧ s'.op = .none ∧ s'.frm.phase = .idle
    ∧ s'.results = s.results ++ [o.result] ∧ s'.link.rx = left

/-- A DECODE stands at its first read, on a reference link that holds `rx` and to which nothing more arrives. -/
def State.decodeOn (s : State) (rx : Bytes) : Prop :=
  (∃ tmo, s.op = .decode tmo) ∧ s.frm.phase = .hdr ∧ s.link.model = .reference ∧ s.link.rx = rx ∧ s.agenda = []

/-! ### What a comparison of two runs leaves out -/

/-- `BLK.OP` without the timeout selector of a DECODE. -/
def BlkOp.withoutTimeout : BlkOp → BlkOp
  | .none => .none
  | .decode _ => .decode false
  | .execute => .execute

/-- A recorded access without the timeout it was made with. -/
def LinkAccess.withoutTimeout : LinkAccess → LinkAccess
  | .write s => .write s
  | .read n _ r => .read n 0 r

/-- The state without every timeout selector of the operation in progress and every recorded timeout. -/
def State.withoutTimeouts (s : State) : State :=
  { s with
    op := s.op.withoutTimeout
    cor := { s.cor with tmo := false }
    link := { s.link with log := s.link.log.map LinkAccess.withoutTimeout } }

/-- FRM without the working registers whose values R25 leaves unspecified: all of them between decodes, and in a decode those
that it has not written yet. -/
def Frm.withoutUnspecified (f : Frm) : Frm :=
  match f.phase with
  | .idle => { Frm.reset with phase := .idle }
  | .hdr => { Frm.reset with phase := .hdr }
  | .pay => { f with buf := [], ftr := 0 }
  | .ftr => { f with ftr := 0 }

/-- COR without the request registers, outside the EXECUTE that loaded them (R28). -/
def State.corWithoutUnspecified (s : State) : Cor :=
  match s.op with
  | .none => { s.cor with type := 0, pay := [], tmo := false }
  | .decode _ => { s.cor with type := 0, pay := [], tmo := false }
  | .execute => s.cor

/-- The state without the registers that hold a value only because the model gives every register one (logs 1 to 3). -/
def State.withoutUnspecified (s : State) : State :=
  { s with frm := s.frm.withoutUnspecified, cor := s.corWithoutUnspecified }

/-- An answer with its next state changed by `f`. -/
def mapNext (f : State → State) : Answer State → Answer State
  | .next t => .next (f t)
  | .fault r => .fault r
  | .refused r => .refused r

end Sys2Proof.Machine
end

