-- ==== Sys2Proof/Certificates/Slice0/Obligations.lean ====
section
/-! DEFINITION. The statements for the provers. Unless its docstring says otherwise, a statement holds under both link
models of spec/20_memory.md R43 and for every value of the `OPEN` parameters (log 5). -/

open Sys2Proof Sys2Proof.Machine

/-! ### CKS -/

/-- R102: CKS_INIT sets both accumulators to `0xFF`, in the step that admits it, with result OK and nothing else changed. It
is the request word `0x00000000` with an empty `PIN`, admitted while the block is not busy. -/
def Obligations.CksInitSetsBothAccumulators : Prop :=
  (∀ s : State, s.busy = false →
    exec .cksInit s = .next { s with cks := ⟨0xFF, 0xFF⟩, results := s.results ++ [.ok] }) ∧
  (∀ s : State, s.busy = true → exec .cksInit s = .refused .blkBusy) ∧
  (∀ w pin, decodeRequest w pin = .instr .cksInit ↔ w = 0x00000000 ∧ pin = [])

/-- R103: CKS_FEED applies one checksum step to the old accumulators, with result OK and nothing else changed. It is admitted
for `OP = 001` with `TYPE`, `TMO` and `RSV` zero and an empty `PIN`, while the block is not busy; its operand is `BYTE`. -/
def Obligations.CksFeedAppliesOneStep : Prop :=
  (∀ (c : Byte) (s : State), s.busy = false →
    exec (.cksFeed c) s = .next { s with
      cks := ⟨(cksStep (s.cks.msb, s.cks.lsb) c).1, (cksStep (s.cks.msb, s.cks.lsb) c).2⟩
      results := s.results ++ [.ok] }) ∧
  (∀ (c : Byte) (s : State), s.busy = true → exec (.cksFeed c) s = .refused .blkBusy) ∧
  (∀ w pin c, decodeRequest w pin = .instr (.cksFeed c) ↔
    opField w = 1 ∧ typeField w = 0 ∧ tmoField w = false ∧ rsvField w = 0 ∧ pin = [] ∧ byteField w = c)

/-- R104: CKS_READ presents `(CKS.MSB << 8) | CKS.LSB` and changes no state. It is the request word `0x00000002` with an empty
`PIN`, admitted while the block is not busy. -/
def Obligations.CksReadPresentsTheValue : Prop :=
  (∀ s : State, s.busy = false → ∃ v : U16, v.toNat = s.cks.msb.toNat <<< 8 ||| s.cks.lsb.toNat ∧
    exec .cksRead s = .next { s with results := s.results ++ [.value v] }) ∧
  (∀ s : State, s.busy = true → exec .cksRead s = .refused .blkBusy) ∧
  (∀ w pin, decodeRequest w pin = .instr .cksRead ↔ w = 0x00000002 ∧ pin = [])

/-- R101: the step on 8-bit values is the recurrence on unbounded numbers with the masks of the rule. -/
def Obligations.ChecksumStepIsTheMaskedRecurrence : Prop :=
  ∀ msb lsb c : Byte,
    ((cksStep (msb, lsb) c).1.toNat, (cksStep (msb, lsb) c).2.toNat) = cksStepNat msb.toNat lsb.toNat c.toNat

/-- The recurrence gives the bitwise CRC with polynomial `0x1021` and initial register `0xFFFF` on every byte string. R107 marks
the equivalence as the spec's general knowledge, not the source's. -/
def Obligations.ChecksumEqualsBitwiseCrc : Prop :=
  ∀ s : Bytes, checksum s = crcBitwise s

/-- The checksum of a whole frame, footer included, is zero. R108 law 3 marks it as general knowledge. -/
def Obligations.FrameResidueIsZero : Prop :=
  ∀ (t : I16) (p : Bytes), checksum (frame t p) = 0

/-- Changing one bit of a byte string changes its checksum. R108 law 4 marks it as general knowledge. -/
def Obligations.ChecksumDetectsEveryOneBitChange : Prop :=
  ∀ (before after : Bytes) (c : Byte) (k : Nat), k < 8 →
    checksum (before ++ [c ^^^ ((1 : Byte) <<< k)] ++ after) ≠ checksum (before ++ [c] ++ after)

/-- The expansion of `CHECKSUM p` runs from any state in which no operation is in progress and nothing else is on the agenda,
presents `checksum(p)` last, and leaves it in the CKS registers. Derived from R76 and R105. -/
def Obligations.ChecksumExpansionComputesChecksum : Prop :=
  ∀ (p : Bytes) (s : State), s.busy = false →
    runTurns (p.length + 2) { s with agenda := hostRequests (checksumRequests p) } = .next { s with
      agenda := []
      cks := ⟨hiByte (checksum p), loByte (checksum p)⟩
      results := s.results ++ List.replicate (p.length + 1) .ok ++ [.value (checksum p)] }

/-! ### FRM: frames -/

/-- R67, R68: the layout of a frame, byte by byte. -/
def Obligations.FrameLayoutIsHeaderPayloadFooter : Prop :=
  ∀ (t : I16) (p : Bytes), p.length ≤ 65535 →
    (frame t p).length = 6 + p.length ∧
    ((frame t p).getD 0 0).toNat = t.toNat / 256 ∧
    ((frame t p).getD 1 0).toNat = t.toNat % 256 ∧
    ((frame t p).getD 2 0).toNat = p.length / 256 ∧
    ((frame t p).getD 3 0).toNat = p.length % 256 ∧
    ((frame t p).drop 4).take p.length = p ∧
    ((frame t p).getD (4 + p.length) 0).toNat = (checksum ((frame t p).take (4 + p.length))).toNat / 256 ∧
    ((frame t p).getD (5 + p.length) 0).toNat = (checksum ((frame t p).take (4 + p.length))).toNat % 256

/-- R120, R121: ENCODE presents the frame and changes nothing else, for every command type and whatever `COR.DEAD` is; it is
refused on a payload over 65535 bytes and while the block is busy. -/
def Obligations.EncodePresentsTheFrame : Prop :=
  (∀ (t : I16) (p : Bytes) (s : State), p.length ≤ 65535 → s.busy = false →
    exec (.encode t p) s = .next { s with results := s.results ++
      [.frame (tobe16 t ++ tobe16 (BitVec.ofNat 16 p.length) ++ p ++
        tobe16 (checksum (tobe16 t ++ tobe16 (BitVec.ofNat 16 p.length) ++ p)))] }) ∧
  (∀ (t : I16) (p : Bytes) (s : State), p.length ≤ 65535 → s.busy = true →
    exec (.encode t p) s = .refused .blkBusy) ∧
  (∀ (t : I16) (p : Bytes) (s : State), 65535 < p.length → exec (.encode t p) s = .refused .encPayloadTooLong) ∧
  (∀ w pin t p, decodeRequest w pin = .instr (.encode t p) ↔
    opField w = 3 ∧ byteField w = 0 ∧ tmoField w = false ∧ rsvField w = 0 ∧ pin.length ≤ 65535 ∧
      typeField w = t ∧ pin = p)

/-! ### FRM: decoding -/

/-- R122: DECODE's admission and start step, and its end: the outcome is the record, and the operation is over. It never retries
and never sets `COR.DEAD` or `COR.FAULT`. (The packet a decode ends with has its payload in `FRM.BUF`, R127.) -/
def Obligations.DecodeStartsAndEndsWithItsOutcome : Prop :=
  (∀ (tmo : Bool) (s : State), s.busy = false → s.cor.dead = false →
    exec (.decode tmo) s = .next { s with op := .decode tmo, frm := { s.frm with phase := .hdr } }) ∧
  (∀ (tmo : Bool) (s : State), s.busy = true → exec (.decode tmo) s = .refused .blkBusy) ∧
  (∀ (tmo : Bool) (s : State), s.busy = false → s.cor.dead = true → exec (.decode tmo) s = .refused .corDead) ∧
  (∀ w pin tmo, decodeRequest w pin = .instr (.decode tmo) ↔
    opField w = 4 ∧ typeField w = 0 ∧ byteField w = 0 ∧ rsvField w = 0 ∧ pin = [] ∧ tmoField w = tmo) ∧
  (∀ (s : State) (tmo : Bool), s.op = .decode tmo →
    (∀ t, finishDecode (.packet t s.frm.buf) s =
      .next { s with op := .none, results := s.results ++ [.packet t s.frm.buf] }) ∧
    finishDecode .shortHeader s = .next { s with op := .none, results := s.results ++ [.shortHeader] } ∧
    finishDecode .shortPayload s = .next { s with op := .none, results := s.results ++ [.shortPayload] } ∧
    finishDecode .shortFooter s = .next { s with op := .none, results := s.results ++ [.shortFooter] } ∧
    finishDecode .checksumMismatch s = .next { s with op := .none, results := s.results ++ [.checksumMismatch] })

/-- R123, R124, R125: the header step reads 4 bytes, parses them big-endian, and goes to PAY, or to FTR with an empty payload and
no payload read when the length is 0; the payload step reads `FRM.LEN` bytes. A short read ends the decode, and the bytes it got
are gone; FRM's working registers are then unspecified (R25, log 3). -/
def Obligations.HeaderAndPayloadStepsReadAndParse : Prop :=
  ∀ s : State, s.blockMoves = true → s.decoding = true →
    (s.frm.phase = .hdr → ∀ b0 b1 b2 b3, s.link.readBytes 4 = [b0, b1, b2, b3] → be16 b2 b3 ≠ 0 →
      step s = .next { s with
        agenda := s.agenda.tail
        link := s.link.read 4 (timeout s.tsel)
        frm := { s.frm with
          hdr := [b0, b1, b2, b3], type := be16 b0 b1, len := be16 b2 b3, phase := .pay } }) ∧
    (s.frm.phase = .hdr → ∀ b0 b1 b2 b3, s.link.readBytes 4 = [b0, b1, b2, b3] → be16 b2 b3 = 0 →
      step s = .next { s with
        agenda := s.agenda.tail
        link := s.link.read 4 (timeout s.tsel)
        frm := { s.frm with
          hdr := [b0, b1, b2, b3], type := be16 b0 b1, len := be16 b2 b3, buf := [], phase := .ftr } }) ∧
    (s.frm.phase = .hdr → (s.link.readBytes 4).length < 4 → ∃ f : Machine.Frm, f.phase = .idle ∧
      step s = .next (endDecode .shortHeader { s with
        agenda := s.agenda.tail
        link := s.link.read 4 (timeout s.tsel)
        frm := f })) ∧
    (s.frm.phase = .pay → (s.link.readBytes s.frm.len.toNat).length = s.frm.len.toNat →
      step s = .next { s with
        agenda := s.agenda.tail
        link := s.link.read s.frm.len.toNat (timeout s.tsel)
        frm := { s.frm with buf := s.link.readBytes s.frm.len.toNat, phase := .ftr } }) ∧
    (s.frm.phase = .pay → (s.link.readBytes s.frm.len.toNat).length < s.frm.len.toNat → ∃ f : Machine.Frm, f.phase = .idle ∧
      step s = .next (endDecode .shortPayload { s with
        agenda := s.agenda.tail
        link := s.link.read s.frm.len.toNat (timeout s.tsel)
        frm := f }))

/-- R126, R127: the footer step reads 2 bytes and compares them with the checksum of header and payload. It ends the decode, after
which FRM's other working registers are unspecified (R25, log 3). -/
def Obligations.FooterStepChecksTheChecksum : Prop :=
  ∀ s : State, s.blockMoves = true → s.decoding = true → s.frm.phase = .ftr →
    (∀ f0 f1, s.link.readBytes 2 = [f0, f1] → be16 f0 f1 = checksum (s.frm.hdr ++ s.frm.buf) →
      ∃ f : Machine.Frm, f.phase = .idle ∧ f.ftr = be16 f0 f1 ∧ step s = .next (endDecode (.packet s.frm.type s.frm.buf) { s with
        agenda := s.agenda.tail
        link := s.link.read 2 (timeout s.tsel)
        frm := f })) ∧
    (∀ f0 f1, s.link.readBytes 2 = [f0, f1] → be16 f0 f1 ≠ checksum (s.frm.hdr ++ s.frm.buf) →
      ∃ f : Machine.Frm, f.phase = .idle ∧ f.ftr = be16 f0 f1 ∧ step s = .next (endDecode .checksumMismatch { s with
        agenda := s.agenda.tail
        link := s.link.read 2 (timeout s.tsel)
        frm := f })) ∧
    ((s.link.readBytes 2).length < 2 → ∃ f : Machine.Frm, f.phase = .idle ∧
      step s = .next (endDecode .shortFooter { s with
        agenda := s.agenda.tail
        link := s.link.read 2 (timeout s.tsel)
        frm := f }))

/-- Reference link. A DECODE of whatever bytes are on RX takes the outcome, and leaves the bytes, that the pure frame decoder
gives, and it leaves TX, the CKS and COR registers and the records of refusals and of the run's fault alone. Derived from R122 to R130. -/
def Obligations.DecodeRefinesThePureFrameDecoder : Prop :=
  ∀ (s : State) (rx : Bytes), s.decodeOn rx →
    ∃ k s', k ≤ 3 ∧ runTurns k s = .next s' ∧ s'.op = .none ∧ s'.frm.phase = .idle ∧
      s'.results = s.results ++ [(decodeFrame rx).1.result] ∧ s'.link.rx = (decodeFrame rx).2 ∧
      s'.link.tx = s.link.tx ∧ s'.cks = s.cks ∧ s'.cor = s.cor ∧ s'.params = s.params ∧
      s'.refusals = s.refusals ∧ s'.faultCleared = s.faultCleared ∧ s'.agenda = []

/-- Reference link. Round trip: a DECODE on a frame followed by anything presents the frame's type and payload and leaves exactly
what follows. Derived (R131). -/
def Obligations.DecodeRoundTripsEveryFrame : Prop :=
  ∀ (s : State) (t : I16) (p rest : Bytes), p.length ≤ 65535 → s.decodeOn (frame t p ++ rest) →
    s.decodesTo (.packet t p) rest

/-- Reference link. One flipped bit of the type, the payload or the footer gives `ChecksumMismatch` and leaves nothing on RX.
Derived (R132 part 1). R132 rests it on R108 law 4, which the spec marks as general knowledge. -/
def Obligations.BitFlipOutsideTheLengthGivesMismatch : Prop :=
  ∀ (s : State) (t : I16) (p : Bytes) (i k : Nat), p.length ≤ 65535 → i < 6 + p.length → i ≠ 2 → i ≠ 3 → k < 8 →
    s.decodeOn ((frame t p).set i ((frame t p).getD i 0 ^^^ ((1 : Byte) <<< k))) →
    s.decodesTo .checksumMismatch []

/-- Reference link. One flipped bit of the length: a length beyond the frame gives `ShortPayload`, one that takes in footer bytes
`ShortFooter`, and a smaller one takes the two bytes after the cut payload as the footer and leaves the rest of the frame on RX: the
outcome is `ChecksumMismatch` unless those two bytes are the checksum of the corrupt header and the cut payload. Derived (R132 part
2, 90_conflicts.md C1). -/
def Obligations.BitFlipInTheLengthFollowsTheCaseSplit : Prop :=
  ∀ (s : State) (t : I16) (p : Bytes) (k : Nat), p.length ≤ 65535 → k < 16 →
    let l' := (BitVec.ofNat 16 p.length ^^^ ((1 : U16) <<< k)).toNat
    let hdr' := tobe16 t ++ tobe16 (BitVec.ofNat 16 l')
    let rest := (frame t p).drop 4
    s.decodeOn (hdr' ++ rest) →
    (p.length + 2 < l' → s.decodesTo .shortPayload []) ∧
    (p.length < l' → l' ≤ p.length + 2 → s.decodesTo .shortFooter []) ∧
    (l' < p.length →
      let footer := (rest.drop l').take 2
      let left := rest.drop (l' + 2)
      left.length = p.length - l' ∧
      (footer ≠ tobe16 (checksum (hdr' ++ p.take l')) → s.decodesTo .checksumMismatch left) ∧
      (footer = tobe16 (checksum (hdr' ++ p.take l')) → s.decodesTo (.packet t (p.take l')) left))

/-- Under both link models: whatever the link gives, a DECODE that stands at its first read and is left to run completes within 3 more
steps with one record, the record of a decode, having made at most 3 reads and no other access, and leaves TX, the CKS and COR
registers and the records of refusals and of the run's fault alone. Derived (R58, R122 to R127), on the assumption that every read returns (R58, log 17). -/
def Obligations.DecodeCompletesWithinItsBounds : Prop :=
  ∀ (s : State) (tmo : Bool), s.op = .decode tmo → s.frm.phase = .hdr → s.agenda = [] →
    ∃ k s' o reads, k ≤ 3 ∧ runTurns k s = .next s' ∧ s'.op = .none ∧ s'.frm.phase = .idle ∧
      s'.results = s.results ++ [DecodeOutcome.result o] ∧
      s'.link.log = s.link.log ++ reads ∧ reads.length ≤ 3 ∧ (∀ a ∈ reads, ∃ n τ r, a = LinkAccess.read n τ r) ∧
      s'.link.tx = s.link.tx ∧ s'.cks = s.cks ∧ s'.cor = s.cor ∧ s'.params = s.params ∧
      s'.refusals = s.refusals ∧ s'.faultCleared = s.faultCleared ∧ s'.agenda = []

/-! ### COR -/

/-- R150, R151: EXECUTE's admission, its reasons for refusal, and its start step, which loads the request registers and makes no
link access. -/
def Obligations.ExecuteStartLoadsTheRequest : Prop :=
  (∀ (tmo : Bool) (t : I16) (p : Bytes) (s : State), p.length ≤ 65535 → s.busy = false → 0 < t.toInt →
    s.cor.dead = false →
    exec (.execute tmo t p) s = .next { s with
      cor := { s.cor with type := t, pay := p, tmo := tmo, att := 0, phase := .send }
      op := .execute }) ∧
  (∀ (tmo : Bool) (t : I16) (p : Bytes) (s : State), 65535 < p.length →
    exec (.execute tmo t p) s = .refused .encPayloadTooLong) ∧
  (∀ (tmo : Bool) (t : I16) (p : Bytes) (s : State), p.length ≤ 65535 → s.busy = true →
    exec (.execute tmo t p) s = .refused .blkBusy) ∧
  (∀ (tmo : Bool) (t : I16) (p : Bytes) (s : State), p.length ≤ 65535 → s.busy = false → t.toInt ≤ 0 →
    exec (.execute tmo t p) s = .refused .corTypeNotPositive) ∧
  (∀ (tmo : Bool) (t : I16) (p : Bytes) (s : State), p.length ≤ 65535 → s.busy = false → 0 < t.toInt →
    s.cor.dead = true → exec (.execute tmo t p) s = .refused .corDead) ∧
  (∀ w pin tmo t p, decodeRequest w pin = .instr (.execute tmo t p) ↔
    opField w = 5 ∧ byteField w = 0 ∧ rsvField w = 0 ∧ pin.length ≤ 65535 ∧ tmoField w = tmo ∧
      typeField w = t ∧ pin = p)

/-- R152: the send step counts the attempt, writes the request frame to the link, and begins the decode. -/
def Obligations.SendStepWritesTheRequestFrame : Prop :=
  ∀ s : State, s.blockMoves = true → s.op = .execute → s.cor.phase = .send →
    step s = .next { s with
      agenda := s.agenda.tail
      cor := { s.cor with att := s.cor.att + 1, phase := .recv }
      link := s.link.write (frame s.cor.type s.cor.pay)
      frm := { s.frm with phase := .hdr } }

/-- R154: a decode that ends with a packet of the request's type completes EXECUTE with its payload. -/
def Obligations.MatchingResponseCompletesExecute : Prop :=
  ∀ (s s' : State) (rp : Bytes), s.blockMoves = true → s.op = .execute → s.cor.phase = .recv →
    readStep s = some (some (.packet s.cor.type rp), s') →
    step s = .next { s' with
      agenda := s.agenda.tail
      cor := { s.cor with phase := .idle }
      op := .none
      results := s.results ++ [.response rp] }

/-- R155: a decode that ends with a packet of type `FAILED_TYPE` completes EXECUTE at once, whatever `COR.ATT` is: `DeviceError`
with the big-endian code of a 4-byte payload, else `MalformedFailure`, which sets `COR.DEAD` and `COR.FAULT`. The premises on the
two types are R150's and R4's, and the invariant keeps them. -/
def Obligations.FailedResponseCompletesExecuteAtOnce : Prop :=
  ∀ (s s' : State) (rp : Bytes), s.blockMoves = true → s.op = .execute → s.cor.phase = .recv →
    0 < s.cor.type.toInt → s.params.failedType.toInt < 0 →
    readStep s = some (some (.packet s.params.failedType rp), s') →
    (∀ b0 b1 b2 b3, rp = [b0, b1, b2, b3] →
      ∃ c : I32, c.toNat = ((b0.toNat * 256 + b1.toNat) * 256 + b2.toNat) * 256 + b3.toNat ∧
      step s = .next { s' with
        agenda := s.agenda.tail
        cor := { s.cor with phase := .idle }
        op := .none
        results := s.results ++ [.deviceError c] }) ∧
    (rp.length ≠ 4 →
      step s = .next { s' with
        agenda := s.agenda.tail
        cor := { s.cor with phase := .idle, dead := true, fault := true }
        op := .none
        results := s.results ++ [.malformedFailure rp] })

/-- R156: a decode failure, or a packet of an unrelated type, is tried again while fewer than 3 attempts were made; at 3 it
completes EXECUTE with `TransportExhausted` and sets `COR.DEAD`. -/
def Obligations.TransientOutcomeRetriesOrExhausts : Prop :=
  ∀ (s s' : State) (o : DecodeOutcome), s.blockMoves = true → s.op = .execute → s.cor.phase = .recv →
    readStep s = some (some o, s') →
    (∀ rt rp, o = .packet rt rp → rt ≠ s.cor.type ∧ rt ≠ s.params.failedType) →
    (s.cor.att.toNat < 3 →
      step s = .next { s' with agenda := s.agenda.tail, cor := { s.cor with phase := .send } }) ∧
    (s.cor.att.toNat = 3 →
      step s = .next { s' with
        agenda := s.agenda.tail
        cor := { s.cor with phase := .idle, dead := true }
        op := .none
        results := s.results ++ [.transportExhausted] })

/-- Whatever the link gives, an EXECUTE that was just admitted and is left to run completes within 12 more steps with one record,
having sent between 1 and 3 identical request frames and nothing else; `TransportExhausted` comes only after 3. Derived (R56,
R157, R164), on the assumption that every read returns (R58, log 17). -/
def Obligations.ExecuteCompletesWithinItsBounds : Prop :=
  ∀ s : State, s.inv = true → s.op = .execute → s.cor.phase = .send → s.cor.att = 0 → s.agenda = [] →
    ∃ k n s' r, k ≤ 12 ∧ runTurns k s = .next s' ∧ s'.op = .none ∧ s'.cor.phase = .idle ∧
      s'.results = s.results ++ [r] ∧ 1 ≤ n ∧ n ≤ 3 ∧ s'.cor.att.toNat = n ∧
      s'.link.tx = s.link.tx ++ (List.replicate n (frame s.cor.type s.cor.pay)).flatten ∧
      (r = .transportExhausted → n = 3) ∧ s'.cks = s.cks

/-- Reference link. An EXECUTE left to run on a link to which nothing more arrives has the result, sends the number of frames, and
leaves the bytes that the pure correlator gives. Derived from R150 to R165. -/
def Obligations.ExecuteRefinesThePureCorrelator : Prop :=
  ∀ s : State, s.op = .execute → s.cor.phase = .send → s.cor.att = 0 → s.agenda = [] →
    s.link.model = .reference →
    ∃ k s', k ≤ 12 ∧ runTurns k s = .next s' ∧ s'.op = .none ∧
      s'.results = s.results ++ [(executeOn s.params s.cor.type 3 s.link.rx).1] ∧
      s'.link.tx = s.link.tx ++
        (List.replicate (executeOn s.params s.cor.type 3 s.link.rx).2.1 (frame s.cor.type s.cor.pay)).flatten ∧
      s'.link.rx = (executeOn s.params s.cor.type 3 s.link.rx).2.2

/-- Reference link. Two unrelated responses and then a matching one: EXECUTE returns the third's payload, having sent exactly 3
request frames, and leaves what follows. Derived (R157). -/
def Obligations.MatchAfterTwoUnrelatedResponsesSucceeds : Prop :=
  ∀ (s : State) (t1 t2 : I16) (p1 p2 rp rest : Bytes),
    s.op = .execute → s.cor.phase = .send → s.cor.att = 0 → s.agenda = [] → s.link.model = .reference →
    p1.length ≤ 65535 → p2.length ≤ 65535 → rp.length ≤ 65535 →
    t1 ≠ s.cor.type → t1 ≠ s.params.failedType → t2 ≠ s.cor.type → t2 ≠ s.params.failedType →
    s.link.rx = frame t1 p1 ++ frame t2 p2 ++ frame s.cor.type rp ++ rest →
    ∃ k s', k ≤ 12 ∧ runTurns k s = .next s' ∧ s'.op = .none ∧ s'.results = s.results ++ [.response rp] ∧
      s'.link.tx = s.link.tx ++ (List.replicate 3 (frame s.cor.type s.cor.pay)).flatten ∧
      s'.link.rx = rest ∧ s'.cor.dead = s.cor.dead

/-! ### Wire command types -/

/-- In a DECODE every wire command type, CT_PIC_PING, CT_PIC_ERASE, CT_PIC_READ, CT_PIC_WRITE, CT_PROG_PING, CT_PROG_CONNECT,
CT_PROG_DISCONNECT, CT_PROG_RESET, CT_PROG_DEVICE_STATUS, CT_PROG_CHIP_ERASE and FAILED_TYPE, presents the packet of its type with
the payload read and ends the operation. That the table's rows run at the end of a decode is log 10. Derived from R122 and R127. -/
def Obligations.WireTypeInDecodePresentsItsPacket : Prop :=
  ∀ (i : Instr) (t : I16) (s : State) (tmo : Bool), wireTypeOf s.params i = some t → s.op = .decode tmo →
    exec i s = .next { s with op := .none, results := s.results ++ [.packet t s.frm.buf] }

/-- In an EXECUTE every wire command type (the ten `CT_*` and FAILED_TYPE alike) is classified by equality alone: matching, failed, or
unrelated. That the table's rows run at the end of a decode is log 10. Derived from R70, R71 and R154 to R156. -/
def Obligations.WireTypeInExecuteIsClassifiedByEquality : Prop :=
  ∀ (i : Instr) (t : I16) (s : State), wireTypeOf s.params i = some t → s.op = .execute →
    (t = s.cor.type → exec i s = .next { s with
      cor := { s.cor with phase := .idle }, op := .none, results := s.results ++ [.response s.frm.buf] }) ∧
    (t ≠ s.cor.type → t = s.params.failedType →
      (∀ b0 b1 b2 b3, s.frm.buf = [b0, b1, b2, b3] → exec i s = .next { s with
        cor := { s.cor with phase := .idle }, op := .none
        results := s.results ++ [.deviceError (be32 b0 b1 b2 b3)] }) ∧
      (s.frm.buf.length ≠ 4 → exec i s = .next { s with
        cor := { s.cor with phase := .idle, dead := true, fault := true }, op := .none
        results := s.results ++ [.malformedFailure s.frm.buf] })) ∧
    (t ≠ s.cor.type → t ≠ s.params.failedType →
      (s.cor.att.toNat < 3 → exec i s = .next { s with cor := { s.cor with phase := .send } }) ∧
      (s.cor.att.toNat = 3 → exec i s = .next { s with
        cor := { s.cor with phase := .idle, dead := true }, op := .none
        results := s.results ++ [.transportExhausted] }))

/-! ### The link -/

/-- A read returns at most the bytes asked for; under the reference model it takes the first `min(n, |RX|)` of RX, under the abstract
model a draw (log 8) that leaves RX alone; TX is untouched. Derived from R42 and R43. -/
def Obligations.LinkReadConsumesWhatItReturns : Prop :=
  ∀ (l : Link) (n t : Nat),
    (l.readBytes n).length ≤ n ∧ (l.read n t).tx = l.tx ∧ (l.read n t).model = l.model ∧
    (l.model = .reference →
      l.readBytes n ++ (l.read n t).rx = l.rx ∧ (l.readBytes n).length = min n l.rx.length) ∧
    (l.model = .abstract →
      l.readBytes n = (Config.linkDraw l.draws).take n ∧ (l.read n t).rx = l.rx ∧ (l.read n t).draws = l.draws + 1)

/-- R44, reference link: in every step, what was on RX and what arrives are the bytes a read of that step returned, in front, and
what is on RX after it. Nothing is dropped in any other way and nothing is pushed back. -/
def Obligations.ReceivedBytesLeaveOnlyByReads : Prop :=
  ∀ s t : State, step s = .next t → s.link.model = .reference →
    ∃ taken, s.link.rx ++ s.arriving = taken ++ t.link.rx ∧
      (taken ≠ [] → ∃ n τ, t.link.log = s.link.log ++ [.read n τ taken])

/-- R41: bytes are appended to TX only as a whole request frame, in the send step, and every other step leaves TX alone. -/
def Obligations.OnlyTheSendStepWritesTheLink : Prop :=
  ∀ s t : State, step s = .next t →
    (t.link.tx = s.link.tx ∧ (∀ b, t.link.log ≠ s.link.log ++ [.write b])) ∨
    (s.blockMoves = true ∧ s.op = .execute ∧ s.cor.phase = .send ∧
      t.link.tx = s.link.tx ++ frame s.cor.type s.cor.pay ∧
      t.link.log = s.link.log ++ [.write (frame s.cor.type s.cor.pay)])

/-- A step makes at most one link access. A read asks for 4, `FRM.LEN` or 2 bytes by the phase, with the timeout the operation's
request selected, and changes neither the selector nor the request. Derived from R48, R64, R123 to R126 and R159. -/
def Obligations.ReadsFollowThePhaseAndTheSelectedTimeout : Prop :=
  ∀ s t : State, step s = .next t →
    t.link.log = s.link.log ∨
    ∃ a, t.link.log = s.link.log ++ [a] ∧ ∀ n τ r, a = .read n τ r →
      s.decoding = true ∧
      ((s.frm.phase = .hdr ∧ n = 4) ∨ (s.frm.phase = .pay ∧ n = s.frm.len.toNat) ∨ (s.frm.phase = .ftr ∧ n = 2)) ∧
      r.length ≤ n ∧
      (∀ tmo, s.op = .decode tmo → τ = if tmo then 5 else 1) ∧
      (s.op = .execute → τ = (if s.cor.tmo then 5 else 1)) ∧
      t.cor.tmo = s.cor.tmo ∧ t.cor.type = s.cor.type ∧ t.cor.pay = s.cor.pay

/-! ### Flags, records, refusals -/

/-- R29: no step but a reset clears `COR.DEAD`; a step sets it exactly when it presents `TransportExhausted` or `MalformedFailure`;
while it is 1 DECODE and EXECUTE are refused, and CKS_INIT, CKS_FEED, CKS_READ and ENCODE are admitted. -/
def Obligations.DeadFlagIsStickyAndSetOnlyByFatalResults : Prop :=
  (∀ s t : State, step s = .next t → s.resetComes = false →
    (s.cor.dead = true → t.cor.dead = true) ∧
    (s.cor.dead = false → (t.cor.dead = true ↔
      t.results = s.results ++ [.transportExhausted] ∨ ∃ p, t.results = s.results ++ [.malformedFailure p]))) ∧
  (∀ s t : State, step s = .next t → s.resetComes = true → t.cor.dead = false) ∧
  (∀ s : State, s.cor.dead = true → s.busy = false →
    (∀ tmo, exec (.decode tmo) s = .refused .corDead) ∧
    (∀ tmo t p, 0 < t.toInt → p.length ≤ 65535 → exec (.execute tmo t p) s = .refused .corDead) ∧
    (∃ t, exec .cksInit s = .next t) ∧ (∀ c, ∃ t, exec (.cksFeed c) s = .next t) ∧
    (∃ t, exec .cksRead s = .next t) ∧
    (∀ ty p, p.length ≤ 65535 → ∃ t, exec (.encode ty p) s = .next t))

/-- R30: no step but a reset clears `COR.FAULT`, and a step sets it exactly when it presents `MalformedFailure`. -/
def Obligations.FaultFlagIsStickyAndSetOnlyByMalformedFailure : Prop :=
  (∀ s t : State, step s = .next t → s.resetComes = false →
    (s.cor.fault = true → t.cor.fault = true) ∧
    (s.cor.fault = false → (t.cor.fault = true ↔ ∃ p, t.results = s.results ++ [.malformedFailure p]))) ∧
  (∀ s t : State, step s = .next t → s.resetComes = true → t.cor.fault = false)

/-- A step presents at most one record, and with it the operation in progress is over; without a record, and but for a reset, an
operation in progress stays in progress. Derived from R31 and R73. -/
def Obligations.EachCompletionPresentsOneRecord : Prop :=
  ∀ s t : State, step s = .next t → s.resetComes = false →
    (t.results = s.results ∧ (s.op ≠ .none → t.op = s.op)) ∨
    (∃ r, t.results = s.results ++ [r] ∧ t.op = .none)

/-- R160: the block's own steps, and the requests of ENCODE, DECODE and EXECUTE, neither read nor write the CKS registers: with other
contents there, everything else goes the same and those contents stay. -/
def Obligations.CksRegistersSurviveEveryLinkOperation : Prop :=
  ∀ (s : State) (c : Cks),
    (s.blockMoves = true ∨
      ∃ w pin rest, s.agenda = .hostRequest w pin :: rest ∧ (opField w = 3 ∨ opField w = 4 ∨ opField w = 5)) →
    step { s with cks := c } = mapNext (fun t => { t with cks := c }) (step s)

/-- A request to which a refusal reason applies changes nothing and presents nothing; the first reason in the order of R188 is
recorded. A request to which none applies runs, and no refusal is recorded. That the step of a refused request answers a next state,
with the request dropped, is the model's reading (log 9); the rest is derived from R62, R63, R66, R184, R188 and R210. -/
def Obligations.RefusedRequestChangesNothingAndIsRecorded : Prop :=
  ∀ (s : State) (w : BitVec 32) (pin : Bytes) (rest : List Event), s.agenda = .hostRequest w pin :: rest →
    (∀ r, refusalReason s w pin = some r →
      step s = .next { s with agenda := rest, refusals := s.refusals ++ [r] }) ∧
    (refusalReason s w pin = none →
      ∃ i t, decodeRequest w pin = .instr i ∧ exec i { s with agenda := rest } = .next t ∧ step s = .next t ∧
        t.refusals = s.refusals)

/-- R63: a request with `OP = 110` or `OP = 111` is refused with `ENC_RESERVED_OP`, whatever its other bits, its payload and the state. -/
def Obligations.ReservedOperationsAreRefused : Prop :=
  (∀ (u : BitVec 29) (p : Bytes) (s : State), exec (.reserved6 u p) s = .refused .encReservedOp) ∧
  (∀ (u : BitVec 29) (p : Bytes) (s : State), exec (.reserved7 u p) s = .refused .encReservedOp) ∧
  (∀ w pin, opField w = 6 → decodeRequest w pin = .instr (.reserved6 (upperField w) pin)) ∧
  (∀ w pin, opField w = 7 → decodeRequest w pin = .instr (.reserved7 (upperField w) pin))

/-- R73: the result code of each record. -/
def Obligations.ResultCodesFollowTheTable : Prop :=
  Result.ok.rc = 0 ∧ (∀ v, (Result.value v).rc = 0) ∧ (∀ d, (Result.frame d).rc = 0) ∧
  (∀ t d, (Result.packet t d).rc = 0) ∧ (∀ d, (Result.response d).rc = 0) ∧ Result.shortHeader.rc = 1 ∧
  Result.shortPayload.rc = 2 ∧ Result.shortFooter.rc = 3 ∧ Result.checksumMismatch.rc = 4 ∧
  (∀ c, (Result.deviceError c).rc = 5) ∧ Result.transportExhausted.rc = 6 ∧ (∀ d, (Result.malformedFailure d).rc = 7)

/-! ### Reset and the invariant -/

/-- R200: what reset leaves, in every register the rule gives a value; the block does not reset the link, and then waits for a request.
The parameters and the link are whatever the machine was built with. -/
def Obligations.ResetStateHoldsTheResetValues : Prop :=
  ∀ (P : Params) (L : Link),
    (State.boot P L).cks = ⟨0xFF, 0xFF⟩ ∧ (State.boot P L).frm.phase = .idle ∧ (State.boot P L).cor.phase = .idle ∧
    (State.boot P L).cor.att = 0 ∧ (State.boot P L).cor.dead = false ∧ (State.boot P L).cor.fault = false ∧
    (State.boot P L).op = .none ∧ (State.boot P L).link = L ∧ step (State.boot P L) = .next (State.boot P L)

/-- R200, R201: a reset between two steps, whatever operation is in progress: the registers take their reset values, no record is
presented, and the link accesses already made stay made. -/
def Obligations.ResetPulseAbandonsTheOperation : Prop :=
  ∀ (s : State) (rest : List Event), s.agenda = .resetPulse :: rest →
    ∃ t, step s = .next t ∧ t.cks = ⟨0xFF, 0xFF⟩ ∧ t.frm.phase = .idle ∧ t.cor.phase = .idle ∧ t.cor.att = 0 ∧
      t.cor.dead = false ∧ t.cor.fault = false ∧ t.op = .none ∧ t.results = s.results ∧ t.link = s.link ∧
      t.agenda = rest ∧ t.params = s.params ∧ t.refusals = s.refusals

/-- The state after reset meets the invariant, for all parameters that meet R4 and for any link. `State.reset` is that state for the
reference parameters and a fresh link, which are the model's choice (logs 4, 5 and 6), and so meets it too. -/
def Obligations.ResetMeetsTheInvariant : Prop :=
  (∀ (P : Params) (L : Link), P.wf = true → (State.boot P L).inv = true) ∧
  State.reset = State.boot Params.reference Link.fresh ∧ State.reset.inv = true

/-- Every step, of the host, the device, a reset or the block, keeps the invariant, from every state that meets it. -/
def Obligations.EveryStepKeepsTheInvariant : Prop :=
  ∀ s t : State, s.inv = true → step s = .next t → t.inv = true

/-- From every state that meets the invariant a step answers a next state: the machine never stops. That a refused request does not
stop it is the model's reading (log 9): R184 itself says that such a request has no step. -/
def Obligations.MachineNeverStopsUnderTheInvariant : Prop :=
  ∀ s : State, s.inv = true → ∃ t, step s = .next t

/-- The premises of a claim about a run hold in a state only if they held in every state before it, resets included, and a step makes
them fail exactly by presenting `MalformedFailure` or by recording a refusal. Derived (R30, R183, R184). That a fault still counts
after a reset, where R30 asks for `COR.FAULT = 0` at the end, is the model's reading of R183 (log 24). -/
def Obligations.GoodStatesComeOnlyFromGoodStates : Prop :=
  ∀ s t : State, step s = .next t →
    (t.good = true ↔ s.good = true ∧ (∀ p, t.results ≠ s.results ++ [.malformedFailure p]) ∧
      (∀ r, t.refusals ≠ s.refusals ++ [r]))

/-- R183: a run that reaches `COR.FAULT = 1` is never good again, and so is one in which a step presents `MalformedFailure`, whatever
turns follow, a reset among them. Derived (R183; that a reset begins no new run is the model's reading, log 24). -/
def Obligations.RunThatReachesTheFaultIsNeverGood : Prop :=
  (∀ (n : Nat) (s u : State), s.cor.fault = true → runTurns n s = .next u → u.good = false) ∧
  (∀ (n : Nat) (s t u : State) (p : Bytes), step s = .next t → t.results = s.results ++ [.malformedFailure p] →
    runTurns n t = .next u → u.good = false)

/-! ### Steps and turns -/

/-- A host request that decodes to an instruction runs it: what `exec` answers is the step's next state, and a refusal is recorded
(R184, log 9). -/
def Obligations.StepRunsTheDecodedRequest : Prop :=
  ∀ (s : State) (w : BitVec 32) (pin : Bytes) (rest : List Event) (i : Instr),
    s.agenda = .hostRequest w pin :: rest → decodeRequest w pin = .instr i →
    (∀ t, exec i { s with agenda := rest } = .next t → step s = .next t) ∧
    (∀ r, exec i { s with agenda := rest } = .refused r →
      step s = .next { s with agenda := rest, refusals := s.refusals ++ [r] })

/-- The read that ends a decode with a packet of a type the opcode table names runs that row's instruction (log 10). -/
def Obligations.StepRunsTheDecodedWireType : Prop :=
  ∀ (s s' : State) (t : I16) (p : Bytes) (i : Instr), s.blockMoves = true → s.decoding = true →
    readStep s = some (some (.packet t p), s') → decodeWireType s.params t = some i →
    step s = exec i { s' with agenda := s.agenda.tail }

/-- Whose turn it is: an empty agenda and `blockTurn` are the block's own step, which waits when no operation is in progress (R200); a
device's bytes are appended to RX (R43). Derived, with log 7 for the agenda. -/
def Obligations.TurnsFollowTheAgenda : Prop :=
  (∀ s : State, s.blockMoves = true → s.op = .none → step s = .next { s with agenda := s.agenda.tail }) ∧
  (∀ (s : State) (bytes : Bytes) (rest : List Event), s.agenda = .deviceSends bytes :: rest →
    step s = .next { s with agenda := rest, link := { s.link with rx := s.link.rx ++ bytes } })

/-! ### Encodings -/

/-- Decoding the encoding of a well-formed instruction gives it back, for every instruction of the opcode table, every operand and all
parameters that meet R4. -/
def Obligations.DecodeOfEncodeIsTheInstruction : Prop :=
  ∀ (P : Params) (i : Instr), P.wf = true → i.wf = true → decodeEncoded P (encode P i) = some i

/-- What decodes to an instruction is that instruction's one encoding, and the instruction is well-formed. -/
def Obligations.EveryDecodedWordIsItsEncoding : Prop :=
  ∀ (P : Params) (e : Encoded) (i : Instr), decodeEncoded P e = some i → encode P i = e ∧ i.wf = true

/-- Words written out from R60, R61 and the request word examples of section 1 of 30_encoding.md. -/
def Obligations.RequestWordExamplesDecode : Prop :=
  decodeRequest 0x00000000 [] = .instr .cksInit ∧
  decodeRequest 0x0000AB01 [] = .instr (.cksFeed 0xAB) ∧
  decodeRequest 0x00000002 [] = .instr .cksRead ∧
  decodeRequest 0xFFFF0003 [] = .instr (.encode (BitVec.ofInt 16 (-1)) []) ∧
  decodeRequest 0x0000000C [] = .instr (.decode true) ∧
  decodeRequest 0x0002000D [0x01] = .instr (.execute true 2 [0x01]) ∧
  decodeRequest 0x0000000A [] = .rejected .fieldNonzero

/-- A line of text whose payload fits assembles to request words that decode to the instructions it stands for, in order. Derived from
R75 and R76. -/
def Obligations.AssembledLinesDecodeToTheirInstructions : Prop :=
  ∀ (P : Params) (l : Line), (linePayload l).length ≤ 65535 →
    (l.assemble P).map (fun r => decodeRequest r.word r.pin) = (lineInstrs P l).map Decoded.instr

/-! ### What cannot be told apart -/

/-- R220: the timeouts are 1 and 5 time units, and no rule depends on them: two states that differ only in the timeout selected for the
operation in progress and in the recorded timeouts step to states that differ only so. -/
def Obligations.TimeoutsDecideNothing : Prop :=
  timeout false = 1 ∧ timeout true = 5 ∧
  ∀ s s' : State, s.withoutTimeouts = s'.withoutTimeouts →
    mapNext State.withoutTimeouts (step s) = mapNext State.withoutTimeouts (step s')

/-- The block reads no `OPEN` parameter but `FAILED_TYPE`: with other values for the rest, every step goes the same. Derived from R32 and
R71. -/
def Obligations.OnlyTheFailureMarkerIsRead : Prop :=
  ∀ (s : State) (Q : Params), Q.failedType = s.params.failedType →
    step { s with params := Q } = mapNext (fun t => { t with params := Q }) (step s)

/-- No step reads FRM's working registers between decodes, nor in a decode before it has written them, nor COR's request registers
outside the EXECUTE that loaded them: two states that differ only there step to states that differ only there. So the values the
model gives them where the spec gives none (logs 1 to 3) decide nothing. Derived from R25, R28 and R200. -/
def Obligations.UnspecifiedRegistersDecideNothing : Prop :=
  ∀ s s' : State, s.withoutUnspecified = s'.withoutUnspecified →
    mapNext State.withoutUnspecified (step s) = mapNext State.withoutUnspecified (step s')
end

