-- ==== Sys2Proof/Laws/Decode.lean ====
section
/-! SUPPORT. The request word and its fields: putting together and taking apart. -/

namespace Sys2Proof

/-- The bits of a request word, field by field (R60). -/
theorem getLsbD_requestWord (t : I16) (c : Byte) (rsv : BitVec 4) (tmo : Bool) (op : BitVec 3) (i : Nat) :
    (requestWord t c rsv tmo op).getLsbD i =
      if i < 3 then op.getLsbD i
      else if i < 4 then tmo
      else if i < 8 then rsv.getLsbD (i - 4)
      else if i < 16 then c.getLsbD (i - 8)
      else t.getLsbD (i - 16) := by
  have h : (requestWord t c rsv tmo op).getLsbD i = _ :=
    BitVec.getLsbD_append (x := t ++ c ++ rsv ++ BitVec.ofBool tmo) (y := op) (i := i)
  rw [h, BitVec.getLsbD_append, BitVec.getLsbD_append, BitVec.getLsbD_append]
  simp only [BitVec.getLsbD_ofBool]
  split_ifs <;> first | rfl | omega | simp [show i - 3 = 0 by omega]

@[simp] theorem typeField_requestWord (t : I16) (c : Byte) (rsv : BitVec 4) (tmo : Bool) (op : BitVec 3) :
    typeField (requestWord t c rsv tmo op) = t := by
  apply BitVec.eq_of_getLsbD_eq
  intro i hi
  simp only [typeField, BitVec.getLsbD_extractLsb', getLsbD_requestWord, hi, decide_true, Bool.true_and]
  rw [if_neg (by omega), if_neg (by omega), if_neg (by omega), if_neg (by omega)]
  congr 1; omega

@[simp] theorem byteField_requestWord (t : I16) (c : Byte) (rsv : BitVec 4) (tmo : Bool) (op : BitVec 3) :
    byteField (requestWord t c rsv tmo op) = c := by
  apply BitVec.eq_of_getLsbD_eq
  intro i hi
  simp only [byteField, BitVec.getLsbD_extractLsb', getLsbD_requestWord, hi, decide_true, Bool.true_and]
  rw [if_neg (by omega), if_neg (by omega), if_neg (by omega), if_pos (by omega)]
  congr 1; omega

@[simp] theorem rsvField_requestWord (t : I16) (c : Byte) (rsv : BitVec 4) (tmo : Bool) (op : BitVec 3) :
    rsvField (requestWord t c rsv tmo op) = rsv := by
  apply BitVec.eq_of_getLsbD_eq
  intro i hi
  simp only [rsvField, BitVec.getLsbD_extractLsb', getLsbD_requestWord, hi, decide_true, Bool.true_and]
  rw [if_neg (by omega), if_neg (by omega), if_pos (by omega)]
  congr 1; omega

@[simp] theorem tmoField_requestWord (t : I16) (c : Byte) (rsv : BitVec 4) (tmo : Bool) (op : BitVec 3) :
    tmoField (requestWord t c rsv tmo op) = tmo :=
  (getLsbD_requestWord t c rsv tmo op 3).trans (by simp)

@[simp] theorem opField_requestWord (t : I16) (c : Byte) (rsv : BitVec 4) (tmo : Bool) (op : BitVec 3) :
    opField (requestWord t c rsv tmo op) = op := by
  apply BitVec.eq_of_getLsbD_eq
  intro i hi
  simp only [opField, BitVec.getLsbD_extractLsb', getLsbD_requestWord, hi, decide_true, Bool.true_and]
  rw [if_pos (by omega)]
  congr 1
  omega

/-- A request word is the word of its fields (R60). -/
theorem requestWord_fields (w : BitVec 32) :
    requestWord (typeField w) (byteField w) (rsvField w) (tmoField w) (opField w) = w := by
  apply BitVec.eq_of_getLsbD_eq
  intro i hi
  rw [getLsbD_requestWord]
  simp only [typeField, byteField, rsvField, tmoField, opField, BitVec.getLsbD_extractLsb']
  split_ifs
  · simp [*]
  · rw [show i = 3 by omega]
  all_goals
    rw [decide_eq_true (by omega), Bool.true_and]
    congr 1; omega

/-- The bits of a reserved operation's word. -/
theorem getLsbD_reservedWord (u : BitVec 29) (op : BitVec 3) (i : Nat) :
    BitVec.getLsbD (w := 32) (u ++ op) i = if i < 3 then op.getLsbD i else u.getLsbD (i - 3) := by
  have h : BitVec.getLsbD (w := 32) (u ++ op) i = _ := BitVec.getLsbD_append (x := u) (y := op) (i := i)
  rw [h]

@[simp] theorem opField_reservedWord (u : BitVec 29) (op : BitVec 3) : opField (u ++ op) = op := by
  apply BitVec.eq_of_getLsbD_eq
  intro i hi
  simp only [opField, BitVec.getLsbD_extractLsb', getLsbD_reservedWord, hi, decide_true, Bool.true_and]
  rw [if_pos (by omega)]
  congr 1; omega

@[simp] theorem upperField_reservedWord (u : BitVec 29) (op : BitVec 3) : upperField (u ++ op) = u := by
  apply BitVec.eq_of_getLsbD_eq
  intro i hi
  simp only [upperField, BitVec.getLsbD_extractLsb', getLsbD_reservedWord, hi, decide_true, Bool.true_and]
  rw [if_neg (by omega)]
  congr 1; omega

/-- A word is its operation code under the bits above it. -/
theorem reservedWord_fields (w : BitVec 32) : (upperField w ++ opField w : BitVec 32) = w := by
  apply BitVec.eq_of_getLsbD_eq
  intro i hi
  rw [getLsbD_reservedWord]
  simp only [upperField, opField, BitVec.getLsbD_extractLsb']
  split_ifs
  all_goals
    rw [decide_eq_true (by omega), Bool.true_and]
    congr 1; omega

/-- The eight operation codes. -/
theorem op_cases (op : BitVec 3) :
    op = 0 ∨ op = 1 ∨ op = 2 ∨ op = 3 ∨ op = 4 ∨ op = 5 ∨ op = 6 ∨ op = 7 := by
  revert op
  decide

/-! ### Bytes of a 16-bit value -/

/-- The high byte of a big-endian composition. -/
@[simp] theorem hiByte_be16 (a b : Byte) : hiByte (be16 a b) = a := by
  apply BitVec.eq_of_getLsbD_eq
  intro i hi
  have h : (be16 a b).getLsbD (8 + i) = _ := BitVec.getLsbD_append (x := a) (y := b) (i := 8 + i)
  simp only [hiByte, BitVec.getLsbD_extractLsb', hi, decide_true, Bool.true_and]
  rw [h, if_neg (by omega)]
  congr 1; omega

/-- The low byte of a big-endian composition. -/
@[simp] theorem loByte_be16 (a b : Byte) : loByte (be16 a b) = b := by
  apply BitVec.eq_of_getLsbD_eq
  intro i hi
  have h : (be16 a b).getLsbD (0 + i) = _ := BitVec.getLsbD_append (x := a) (y := b) (i := 0 + i)
  simp only [loByte, BitVec.getLsbD_extractLsb', hi, decide_true, Bool.true_and]
  rw [h, if_pos (by omega)]
  congr 1; omega

/-- Composing the two bytes of a value gives it back. -/
@[simp] theorem be16_bytes (v : U16) : be16 (hiByte v) (loByte v) = v := by
  apply BitVec.eq_of_getLsbD_eq
  intro i hi
  have h : (be16 (hiByte v) (loByte v)).getLsbD i = _ :=
    BitVec.getLsbD_append (x := hiByte v) (y := loByte v) (i := i)
  rw [h]
  simp only [hiByte, loByte, BitVec.getLsbD_extractLsb']
  by_cases h8 : i < 8
  · simp [h8]
  · have : i - 8 < 8 := by omega
    have e : 8 + (i - 8) = i := by omega
    simp [*]

/-- Taking a big-endian composition apart gives its two bytes. -/
@[simp] theorem tobe16_be16 (a b : Byte) : tobe16 (be16 a b) = [a, b] := by simp [tobe16]

/-- The numeric value of the high byte. -/
theorem hiByte_toNat (v : U16) : (hiByte v).toNat = v.toNat / 256 := by
  have := v.isLt
  simp only [hiByte, BitVec.extractLsb'_toNat, Nat.shiftRight_eq_div_pow]
  omega

/-- The numeric value of the low byte. -/
theorem loByte_toNat (v : U16) : (loByte v).toNat = v.toNat % 256 := by
  simp [loByte, BitVec.extractLsb'_toNat]

end Sys2Proof
end

