-- ==== Sys2Proof/Laws/State.lean ====
section
/-! SUPPORT. One lemma per field for each update of the state: what it sets, and that it leaves the rest. -/

namespace Sys2Proof.Machine

@[simp] theorem State.complete_params (s : State) (r : Result) : (s.complete r).params = s.params := rfl
@[simp] theorem State.complete_cks (s : State) (r : Result) : (s.complete r).cks = s.cks := rfl
@[simp] theorem State.complete_frm (s : State) (r : Result) : (s.complete r).frm = s.frm := rfl
@[simp] theorem State.complete_cor (s : State) (r : Result) : (s.complete r).cor = s.cor := rfl
@[simp] theorem State.complete_op (s : State) (r : Result) : (s.complete r).op = .none := rfl
@[simp] theorem State.complete_link (s : State) (r : Result) : (s.complete r).link = s.link := rfl
@[simp] theorem State.complete_agenda (s : State) (r : Result) : (s.complete r).agenda = s.agenda := rfl
@[simp] theorem State.complete_results (s : State) (r : Result) : (s.complete r).results = s.results ++ [r] := rfl
@[simp] theorem State.complete_refusals (s : State) (r : Result) : (s.complete r).refusals = s.refusals := rfl
@[simp] theorem State.complete_faultCleared (s : State) (r : Result) : (s.complete r).faultCleared = s.faultCleared := rfl

@[simp] theorem State.finish_params (s : State) (r : Result) : (s.finish r).params = s.params := rfl
@[simp] theorem State.finish_cks (s : State) (r : Result) : (s.finish r).cks = s.cks := rfl
@[simp] theorem State.finish_frm (s : State) (r : Result) : (s.finish r).frm = s.frm := rfl
@[simp] theorem State.finish_cor (s : State) (r : Result) : (s.finish r).cor = { s.cor with phase := .idle } := rfl
@[simp] theorem State.finish_op (s : State) (r : Result) : (s.finish r).op = .none := rfl
@[simp] theorem State.finish_link (s : State) (r : Result) : (s.finish r).link = s.link := rfl
@[simp] theorem State.finish_agenda (s : State) (r : Result) : (s.finish r).agenda = s.agenda := rfl
@[simp] theorem State.finish_results (s : State) (r : Result) : (s.finish r).results = s.results ++ [r] := rfl
@[simp] theorem State.finish_refusals (s : State) (r : Result) : (s.finish r).refusals = s.refusals := rfl
@[simp] theorem State.finish_faultCleared (s : State) (r : Result) : (s.finish r).faultCleared = s.faultCleared := rfl

@[simp] theorem State.recordRefusal_params (s : State) (r : Refusal) : (s.recordRefusal r).params = s.params := rfl
@[simp] theorem State.recordRefusal_cks (s : State) (r : Refusal) : (s.recordRefusal r).cks = s.cks := rfl
@[simp] theorem State.recordRefusal_frm (s : State) (r : Refusal) : (s.recordRefusal r).frm = s.frm := rfl
@[simp] theorem State.recordRefusal_cor (s : State) (r : Refusal) : (s.recordRefusal r).cor = s.cor := rfl
@[simp] theorem State.recordRefusal_op (s : State) (r : Refusal) : (s.recordRefusal r).op = s.op := rfl
@[simp] theorem State.recordRefusal_link (s : State) (r : Refusal) : (s.recordRefusal r).link = s.link := rfl
@[simp] theorem State.recordRefusal_agenda (s : State) (r : Refusal) : (s.recordRefusal r).agenda = s.agenda := rfl
@[simp] theorem State.recordRefusal_results (s : State) (r : Refusal) : (s.recordRefusal r).results = s.results := rfl
@[simp] theorem State.recordRefusal_refusals (s : State) (r : Refusal) : (s.recordRefusal r).refusals = s.refusals ++ [r] := rfl
@[simp] theorem State.recordRefusal_faultCleared (s : State) (r : Refusal) : (s.recordRefusal r).faultCleared = s.faultCleared := rfl

@[simp] theorem State.setDead_params (s : State) : (s.setDead).params = s.params := rfl
@[simp] theorem State.setDead_cks (s : State) : (s.setDead).cks = s.cks := rfl
@[simp] theorem State.setDead_frm (s : State) : (s.setDead).frm = s.frm := rfl
@[simp] theorem State.setDead_cor (s : State) : (s.setDead).cor = { s.cor with dead := true } := rfl
@[simp] theorem State.setDead_op (s : State) : (s.setDead).op = s.op := rfl
@[simp] theorem State.setDead_link (s : State) : (s.setDead).link = s.link := rfl
@[simp] theorem State.setDead_agenda (s : State) : (s.setDead).agenda = s.agenda := rfl
@[simp] theorem State.setDead_results (s : State) : (s.setDead).results = s.results := rfl
@[simp] theorem State.setDead_refusals (s : State) : (s.setDead).refusals = s.refusals := rfl
@[simp] theorem State.setDead_faultCleared (s : State) : (s.setDead).faultCleared = s.faultCleared := rfl

@[simp] theorem State.setFault_params (s : State) : (s.setFault).params = s.params := rfl
@[simp] theorem State.setFault_cks (s : State) : (s.setFault).cks = s.cks := rfl
@[simp] theorem State.setFault_frm (s : State) : (s.setFault).frm = s.frm := rfl
@[simp] theorem State.setFault_cor (s : State) : (s.setFault).cor = { s.cor with fault := true } := rfl
@[simp] theorem State.setFault_op (s : State) : (s.setFault).op = s.op := rfl
@[simp] theorem State.setFault_link (s : State) : (s.setFault).link = s.link := rfl
@[simp] theorem State.setFault_agenda (s : State) : (s.setFault).agenda = s.agenda := rfl
@[simp] theorem State.setFault_results (s : State) : (s.setFault).results = s.results := rfl
@[simp] theorem State.setFault_refusals (s : State) : (s.setFault).refusals = s.refusals := rfl
@[simp] theorem State.setFault_faultCleared (s : State) : (s.setFault).faultCleared = s.faultCleared := rfl

@[simp] theorem State.resetBlock_params (s : State) : (s.resetBlock).params = s.params := rfl
@[simp] theorem State.resetBlock_cks (s : State) : (s.resetBlock).cks = Cks.reset := rfl
@[simp] theorem State.resetBlock_frm (s : State) : (s.resetBlock).frm = Frm.reset := rfl
@[simp] theorem State.resetBlock_cor (s : State) : (s.resetBlock).cor = Cor.reset := rfl
@[simp] theorem State.resetBlock_op (s : State) : (s.resetBlock).op = .none := rfl
@[simp] theorem State.resetBlock_link (s : State) : (s.resetBlock).link = s.link := rfl
@[simp] theorem State.resetBlock_agenda (s : State) : (s.resetBlock).agenda = s.agenda := rfl
@[simp] theorem State.resetBlock_results (s : State) : (s.resetBlock).results = s.results := rfl
@[simp] theorem State.resetBlock_refusals (s : State) : (s.resetBlock).refusals = s.refusals := rfl
@[simp] theorem State.resetBlock_faultCleared (s : State) : (s.resetBlock).faultCleared = s.faultReached := rfl

@[simp] theorem State.complete_faultReached (s : State) (r : Result) : (s.complete r).faultReached = s.faultReached := rfl
@[simp] theorem State.finish_faultReached (s : State) (r : Result) : (s.finish r).faultReached = s.faultReached := rfl
@[simp] theorem State.recordRefusal_faultReached (s : State) (r : Refusal) : (s.recordRefusal r).faultReached = s.faultReached := rfl
@[simp] theorem State.setDead_faultReached (s : State) : (s.setDead).faultReached = s.faultReached := rfl
@[simp] theorem State.setFault_faultReached (s : State) : (s.setFault).faultReached = true := rfl
@[simp] theorem State.resetBlock_faultReached (s : State) : (s.resetBlock).faultReached = s.faultReached := rfl

@[simp] theorem Link.write_model (l : Link) (s : Bytes) : (l.write s).model = l.model := rfl
@[simp] theorem Link.write_tx (l : Link) (s : Bytes) : (l.write s).tx = l.tx ++ s := rfl
@[simp] theorem Link.write_rx (l : Link) (s : Bytes) : (l.write s).rx = l.rx := rfl
@[simp] theorem Link.write_draws (l : Link) (s : Bytes) : (l.write s).draws = l.draws := rfl
@[simp] theorem Link.write_log (l : Link) (s : Bytes) : (l.write s).log = l.log ++ [.write s] := rfl

@[simp] theorem Link.deliver_model (l : Link) (s : Bytes) : (l.deliver s).model = l.model := rfl
@[simp] theorem Link.deliver_tx (l : Link) (s : Bytes) : (l.deliver s).tx = l.tx := rfl
@[simp] theorem Link.deliver_rx (l : Link) (s : Bytes) : (l.deliver s).rx = l.rx ++ s := rfl
@[simp] theorem Link.deliver_draws (l : Link) (s : Bytes) : (l.deliver s).draws = l.draws := rfl
@[simp] theorem Link.deliver_log (l : Link) (s : Bytes) : (l.deliver s).log = l.log := rfl

end Sys2Proof.Machine
end

