-- ==== Sys2Proof/Laws/Ops.lean ====
section
/-! SUPPORT. What the shared operations can do: the link's reads, admission, the classification of a response, the end of a
decode, and the three read steps. Each lemma says all of it, and later proofs cite it. -/

namespace Sys2Proof.Machine

/-! ### The link -/

@[simp] theorem Link.read_model (l : Link) (n t : Nat) : (l.read n t).model = l.model := by
  unfold Link.read; split <;> simp_all

@[simp] theorem Link.read_tx (l : Link) (n t : Nat) : (l.read n t).tx = l.tx := by
  unfold Link.read; split <;> rfl

@[simp] theorem Link.read_log (l : Link) (n t : Nat) :
    (l.read n t).log = l.log ++ [.read n t (l.readBytes n)] := by
  unfold Link.read; split <;> rfl

theorem Link.readBytes_length_le (l : Link) (n : Nat) : (l.readBytes n).length ≤ n := by
  unfold Link.readBytes; split <;> simp [List.length_take]

/-- The reference link: a read returns the front of RX. -/
theorem Link.readBytes_reference {l : Link} (h : l.model = .reference) (n : Nat) : l.readBytes n = l.rx.take n := by
  simp [Link.readBytes, h]

/-- The reference link: a read leaves the rest of RX. -/
theorem Link.read_rx_reference {l : Link} (h : l.model = .reference) (n t : Nat) :
    (l.read n t).rx = l.rx.drop n := by
  simp [Link.read, h]

/-- The abstract link: RX is not touched. -/
theorem Link.read_rx_abstract {l : Link} (h : l.model = .abstract) (n t : Nat) : (l.read n t).rx = l.rx := by
  simp [Link.read, h]

/-! ### Admission -/

theorem State.busy_eq_false {s : State} : s.busy = false ↔ s.op = .none := by
  unfold State.busy; cases s.op <;> simp

/-- With nothing in progress, completing an operation changes the records alone. -/
theorem State.complete_of_idle {s : State} (h : s.busy = false) (r : Result) :
    s.complete r = { s with results := s.results ++ [r] } := by
  rw [State.busy_eq_false] at h
  simp [State.complete, ← h]

theorem State.whenIdle_of_idle {s : State} (h : s.busy = false) (k : Answer State) : s.whenIdle k = k := by
  simp [State.whenIdle, h]

theorem State.whenIdle_of_busy {s : State} (h : s.busy = true) (k : Answer State) :
    s.whenIdle k = .refused .blkBusy := by
  simp [State.whenIdle, h]

/-- Admission answers a next state only when nothing is in progress. -/
theorem State.whenIdle_next {s t : State} {k : Answer State} (h : s.whenIdle k = .next t) :
    s.op = .none ∧ k = .next t := by
  unfold State.whenIdle at h
  split at h
  · cases h
  · next hb => exact ⟨State.busy_eq_false.1 (by simpa using hb), h⟩

/-- Admission of a link operation answers a next state only while `COR.DEAD = 0`. -/
theorem State.whenAlive_next {s t : State} {k : Answer State} (h : s.whenAlive k = .next t) :
    s.cor.dead = false ∧ k = .next t := by
  unfold State.whenAlive at h
  split at h
  · cases h
  · next hd => exact ⟨by simpa using hd, h⟩

/-- Admission of a payload answers a next state only when it fits. -/
theorem whenPayloadFits_next {p : Bytes} {t : State} {k : Answer State} (h : whenPayloadFits p k = .next t) :
    p.length ≤ 65535 ∧ k = .next t := by
  unfold whenPayloadFits at h
  split at h
  · next hp => exact ⟨hp, h⟩
  · cases h

/-! ### EXECUTE's transitions -/

/-- What an attempt's outcome can do (R154 to R156, R165): complete EXECUTE with a record, or go back to SEND. -/
inductive Settled (s : State) : State → Prop where
  /-- A matching response, or a device error. -/
  | completes (r : Result) (hr : r ≠ .transportExhausted) (hm : ∀ p, r ≠ .malformedFailure p) :
      Settled s { s with cor := { s.cor with phase := .idle }, op := .none, results := s.results ++ [r] }
  /-- A malformed failure response. -/
  | malformed (p : Bytes) : Settled s { s with
      cor := { s.cor with phase := .idle, dead := true, fault := true }
      op := .none
      results := s.results ++ [.malformedFailure p] }
  /-- The third transient outcome. -/
  | exhausted (h : s.cor.att.toNat = 3) : Settled s { s with
      cor := { s.cor with phase := .idle, dead := true }
      op := .none
      results := s.results ++ [.transportExhausted] }
  /-- An earlier transient outcome. -/
  | retries (h : s.cor.att.toNat < 3) : Settled s { s with cor := { s.cor with phase := .send } }

theorem transient_retries {s : State} (h : s.cor.att.toNat < 3) :
    transient s = { s with cor := { s.cor with phase := .send } } := by
  simp [transient, Config.maxAttempts, h]

theorem transient_exhausts {s : State} (h : s.cor.att.toNat = 3) :
    transient s = { s with
      cor := { s.cor with phase := .idle, dead := true }
      op := .none
      results := s.results ++ [.transportExhausted] } := by
  simp [transient, Config.maxAttempts, h, State.finish, State.complete, State.setDead]

theorem transient_settled (s : State) : Settled s (transient s) := by
  have h4 := s.cor.att.isLt
  by_cases h : s.cor.att.toNat < 3
  · rw [transient_retries h]; exact .retries h
  · have h3 : s.cor.att.toNat = 3 := by omega
    rw [transient_exhausts h3]; exact .exhausted h3

theorem failedResponse_of_four (s : State) (b0 b1 b2 b3 : Byte) :
    failedResponse [b0, b1, b2, b3] s = s.finish (.deviceError (be32 b0 b1 b2 b3)) := rfl

theorem failedResponse_of_other {p : Bytes} (h : p.length ≠ 4) (s : State) :
    failedResponse p s = { s with
      cor := { s.cor with phase := .idle, dead := true, fault := true }
      op := .none
      results := s.results ++ [.malformedFailure p] } := by
  unfold failedResponse
  split
  · simp at h
  · rfl

theorem failedResponse_settled (p : Bytes) (s : State) : Settled s (failedResponse p s) := by
  by_cases h : p.length = 4
  · obtain ⟨b0, b1, b2, b3, rfl⟩ : ∃ b0 b1 b2 b3, p = [b0, b1, b2, b3] := by
      match p, h with
      | [b0, b1, b2, b3], _ => exact ⟨b0, b1, b2, b3, rfl⟩
    exact .completes _ (by simp) (by simp)
  · rw [failedResponse_of_other h]; exact .malformed p

theorem respond_settled (rt : I16) (rp : Bytes) (s : State) : Settled s (respond rt rp s) := by
  unfold respond
  split
  · exact .completes (.response rp) (by simp) (by simp)
  · split
    · exact failedResponse_settled rp s
    · exact transient_settled s

/-- The end of a decode in an EXECUTE. -/
theorem endDecode_settled {s : State} (h : s.op = .execute) (o : DecodeOutcome) : Settled s (endDecode o s) := by
  unfold endDecode
  rw [h]
  cases o
  case packet rt rp => exact respond_settled rt rp s
  all_goals exact transient_settled s

/-- The end of a decode in a DECODE. -/
theorem endDecode_decode {s : State} {tmo : Bool} (h : s.op = .decode tmo) (o : DecodeOutcome) :
    endDecode o s = { s with op := .none, results := s.results ++ [o.result] } := by
  simp [endDecode, h, State.complete]

/-! ### The read steps -/

/-- All that a read step can do: it makes one read, of a number of bytes set by the phase, with the selected timeout, and
changes the link and FRM alone; it goes on to a later phase, or ends the decode with `FRM.PHASE = IDLE`, and a packet it ends
with is what FRM holds. -/
theorem readStep_spec {s s' : State} {o : Option DecodeOutcome} (h : readStep s = some (o, s')) :
    ∃ n f, s' = { s with link := s.link.read n (timeout s.tsel), frm := f } ∧
      ((s.frm.phase = .hdr ∧ n = 4) ∨ (s.frm.phase = .pay ∧ n = s.frm.len.toNat) ∨ (s.frm.phase = .ftr ∧ n = 2)) ∧
      (o = none → f.phase = .pay ∨ f.phase = .ftr) ∧ (o ≠ none → f.phase = .idle) ∧
      (∀ t p, o = some (.packet t p) → f.type = t ∧ f.buf = p) := by
  unfold readStep at h
  split at h
  · cases h
  · next hp =>
    simp only [Option.some.injEq] at h
    unfold headerStep at h
    split at h
    · split at h <;>
      · simp only [Prod.mk.injEq] at h
        obtain ⟨rfl, rfl⟩ := h
        exact ⟨4, _, rfl, by simp [hp], by simp, by simp, by simp⟩
    · simp only [Prod.mk.injEq] at h
      obtain ⟨rfl, rfl⟩ := h
      exact ⟨4, _, rfl, by simp [hp], by simp, by simp, by simp⟩
  · next hp =>
    simp only [Option.some.injEq] at h
    simp only [payloadStep] at h
    split at h <;>
    · simp only [Prod.mk.injEq] at h
      obtain ⟨rfl, rfl⟩ := h
      exact ⟨s.frm.len.toNat, _, rfl, by simp [hp], by simp, by simp, by simp⟩
  · next hp =>
    simp only [Option.some.injEq] at h
    unfold footerStep at h
    split at h
    · split at h <;>
      · simp only [Prod.mk.injEq] at h
        obtain ⟨rfl, rfl⟩ := h
        exact ⟨2, _, rfl, by simp [hp], by simp, by simp, by simp⟩
    · simp only [Prod.mk.injEq] at h
      obtain ⟨rfl, rfl⟩ := h
      exact ⟨2, _, rfl, by simp [hp], by simp, by simp, by simp⟩

/-- A read step answers in every phase but IDLE. -/
theorem readStep_isSome {s : State} (h : s.frm.phase ≠ .idle) : ∃ r, readStep s = some r := by
  unfold readStep
  split
  · next hp => exact absurd hp h
  all_goals exact ⟨_, rfl⟩

end Sys2Proof.Machine
end

