-- ==== Sys2Proof/Laws/PerInstr.lean ====
section
/-! SUPPORT. What is proved of each instruction by itself: its encoding lies in its own row of spec/opcode_table.json. -/

namespace Sys2Proof.Laws.TableRow

open Sys2Proof

/-- A row of spec/opcode_table.json: the `mask` and `match` of a host request word, or the `match` of a wire command type, whose
mask is all ones. -/
inductive Row where
  | host (mask value : BitVec 32)
  | wire (value : BitVec 16)

/-- The row of each instruction, copied from the table. -/
def row : Instr → Row
  | .cksInit => .host 0xFFFFFFFF 0x00000000
  | .cksFeed _ => .host 0xFFFF00FF 0x00000001
  | .cksRead => .host 0xFFFFFFFF 0x00000002
  | .encode _ _ => .host 0x0000FFFF 0x00000003
  | .decode _ => .host 0xFFFFFFF7 0x00000004
  | .execute _ _ _ => .host 0x0000FFF7 0x00000005
  | .reserved6 _ _ => .host 0x00000007 0x00000006
  | .reserved7 _ _ => .host 0x00000007 0x00000007
  | .ctPicPing => .wire 0x0001
  | .ctPicErase => .wire 0x0002
  | .ctPicRead => .wire 0x0003
  | .ctPicWrite => .wire 0x0004
  | .ctProgPing => .wire 0x0064
  | .ctProgConnect => .wire 0x0065
  | .ctProgDisconnect => .wire 0x0066
  | .ctProgReset => .wire 0x0067
  | .ctProgDeviceStatus => .wire 0x0068
  | .ctProgChipErase => .wire 0x0069
  | .failedType => .wire 0xFFFF

/-- An encoding lies in a row. -/
def Row.holds : Row → Encoded → Prop
  | .host mask value, .request r => r.word &&& mask = value
  | .host _ _, .wireType _ => False
  | .wire _, .request _ => False
  | .wire value, .wireType t => t = value

/-- The encoding of the instruction, under the table's own reference values (log 16), lies in its row. -/
def Statement (i : Instr) : Prop := (row i).holds (Sys2Proof.encode Params.reference i)

theorem cksInit : Statement .cksInit := rfl

theorem cksFeed (c : Byte) : Statement (.cksFeed c) := by
  show requestWord 0 c 0 false 1 &&& 0xFFFF00FF = 0x00000001
  revert c
  decide

theorem cksRead : Statement .cksRead := rfl

theorem encode (t : I16) (p : Bytes) : Statement (.encode t p) := by
  show requestWord t 0 0 false 3 &&& 0x0000FFFF = 0x00000003
  apply BitVec.eq_of_getLsbD_eq
  intro i hi
  rw [BitVec.getLsbD_and, getLsbD_requestWord]
  interval_cases i <;> simp

theorem decode (tmo : Bool) : Statement (.decode tmo) := by cases tmo <;> rfl

theorem execute (tmo : Bool) (t : I16) (p : Bytes) : Statement (.execute tmo t p) := by
  show requestWord t 0 0 tmo 5 &&& 0x0000FFF7 = 0x00000005
  apply BitVec.eq_of_getLsbD_eq
  intro i hi
  rw [BitVec.getLsbD_and, getLsbD_requestWord]
  interval_cases i <;> simp

/-- The low three bits of a word that ends in a reserved operation code. -/
theorem reserved_low (upper : BitVec 29) (op : BitVec 3) : (upper ++ op) &&& (7 : BitVec 32) = op.setWidth 32 := by
  apply BitVec.eq_of_getLsbD_eq
  intro i hi
  rw [BitVec.getLsbD_and, BitVec.getLsbD_append]
  interval_cases i <;> simp

theorem reserved6 (upper : BitVec 29) (p : Bytes) : Statement (.reserved6 upper p) := reserved_low upper 6

theorem reserved7 (upper : BitVec 29) (p : Bytes) : Statement (.reserved7 upper p) := reserved_low upper 7

theorem ctPicPing : Statement .ctPicPing := rfl

theorem ctPicErase : Statement .ctPicErase := rfl

theorem ctPicRead : Statement .ctPicRead := rfl

theorem ctPicWrite : Statement .ctPicWrite := rfl

theorem ctProgPing : Statement .ctProgPing := rfl

theorem ctProgConnect : Statement .ctProgConnect := rfl

theorem ctProgDisconnect : Statement .ctProgDisconnect := rfl

theorem ctProgReset : Statement .ctProgReset := rfl

theorem ctProgDeviceStatus : Statement .ctProgDeviceStatus := rfl

theorem ctProgChipErase : Statement .ctProgChipErase := rfl

theorem failedType : Statement .failedType := rfl

end Sys2Proof.Laws.TableRow
end

