-- ==== Sys2Proof/Laws/Run.lean ====
section
/-! SUPPORT. What a step can do, said once: `step_cases`. Also what a host request can do (`exec_host_cases`), and that running the
opcode table's row at the end of a decode is the end of the decode (`finishDecode_eq`). -/

namespace Sys2Proof.Machine

/-! ### The decoder -/

/-- A host request decodes to no wire command type. -/
theorem decodeRequest_is_host {w : BitVec 32} {pin : Bytes} {i : Instr} (h : decodeRequest w pin = .instr i)
    (P : Params) : wireTypeOf P i = none := by
  unfold decodeRequest at h
  split at h <;> (try split at h) <;> (try split at h) <;> simp at h <;> subst h <;> rfl

/-- A named command type is the value of its parameter. -/
theorem decodeWireType_value {P : Params} {t : I16} {i : Instr} (h : decodeWireType P t = some i) :
    wireTypeOf P i = some t := by
  unfold decodeWireType at h
  split at h
  · next e => simp at h; subst h; simp [wireTypeOf, e]
  repeat
    split at h
    · next e => simp at h; subst h; simp [wireTypeOf, e]
  simp at h

/-! ### The meanings -/

/-- Every wire command type hands its value to the end of the decode. -/
theorem exec_wire {i : Instr} {t : I16} {s : State} (h : wireTypeOf s.params i = some t) :
    exec i s = .next (endDecode (.packet t s.frm.buf) s) := by
  cases i <;> simp [wireTypeOf] at h <;> subst h <;> rfl

/-- All that a host request can do when it answers a next state. -/
inductive HostRun (s : State) : Instr → State → Prop where
  | cksInit : s.op = .none →
      HostRun s .cksInit { s with cks := ⟨0xFF, 0xFF⟩, results := s.results ++ [.ok] }
  | cksFeed (c : Byte) : s.op = .none → HostRun s (.cksFeed c) { s with
      cks := ⟨(cksStep (s.cks.msb, s.cks.lsb) c).1, (cksStep (s.cks.msb, s.cks.lsb) c).2⟩
      results := s.results ++ [.ok] }
  | cksRead : s.op = .none →
      HostRun s .cksRead { s with results := s.results ++ [.value (cksValue (s.cks.msb, s.cks.lsb))] }
  | encode (t : I16) (p : Bytes) : s.op = .none → p.length ≤ 65535 →
      HostRun s (.encode t p) { s with results := s.results ++ [.frame (frame t p)] }
  | decode (tmo : Bool) : s.op = .none → s.cor.dead = false →
      HostRun s (.decode tmo) { s with op := .decode tmo, frm := { s.frm with phase := .hdr } }
  | execute (tmo : Bool) (t : I16) (p : Bytes) : s.op = .none → s.cor.dead = false → 0 < t.toInt →
      p.length ≤ 65535 → HostRun s (.execute tmo t p) { s with
        cor := { s.cor with type := t, pay := p, tmo := tmo, att := 0, phase := .send }
        op := .execute }

theorem exec_host_cases {i : Instr} {s t : State} (hi : wireTypeOf s.params i = none) (h : exec i s = .next t) :
    HostRun s i t := by
  cases i <;> simp only [wireTypeOf, reduceCtorEq] at hi
  case cksInit =>
    obtain ⟨ho, hk⟩ := State.whenIdle_next h
    cases hk
    simpa [State.complete, Config.cksInitMsb, Config.cksInitLsb, ← ho] using HostRun.cksInit ho
  case cksFeed c =>
    obtain ⟨ho, hk⟩ := State.whenIdle_next h
    cases hk
    simpa [State.complete, ← ho] using HostRun.cksFeed c ho
  case cksRead =>
    obtain ⟨ho, hk⟩ := State.whenIdle_next h
    cases hk
    simpa [State.complete, ← ho] using HostRun.cksRead ho
  case encode ty p =>
    obtain ⟨hp, hk⟩ := whenPayloadFits_next h
    obtain ⟨ho, hk⟩ := State.whenIdle_next hk
    cases hk
    simpa [State.complete, ← ho] using HostRun.encode ty p ho hp
  case decode tmo =>
    obtain ⟨ho, hk⟩ := State.whenIdle_next h
    obtain ⟨hd, hk⟩ := State.whenAlive_next hk
    cases hk
    exact .decode tmo ho hd
  case execute tmo ty p =>
    obtain ⟨hp, hk⟩ := whenPayloadFits_next h
    obtain ⟨ho, hk⟩ := State.whenIdle_next hk
    split at hk
    · cases hk
    · next ht =>
      obtain ⟨hd, hk⟩ := State.whenAlive_next hk
      cases hk
      exact .execute tmo ty p ho hd (by omega) hp
  case reserved6 => cases h
  case reserved7 => cases h

/-- No meaning answers a fault. -/
theorem exec_ne_fault (i : Instr) (s : State) (f : Fault) : exec i s ≠ .fault f := by
  cases i <;>
    simp only [exec, execCksInit, execCksFeed, execCksRead, execEncode, execDecode, execExecute, execReserved6,
      execReserved7, execCtPicPing, execCtPicErase, execCtPicRead, execCtPicWrite, execCtProgPing, execCtProgConnect,
      execCtProgDisconnect, execCtProgReset, execCtProgDeviceStatus, execCtProgChipErase, execFailedType, receive,
      State.whenIdle, State.whenAlive, whenPayloadFits] <;>
    repeat' split
  all_goals simp

/-! ### The end of a decode -/

/-- Ending a decode through the opcode table's row is ending it directly: the table's rows are one operation (R71). -/
theorem finishDecode_eq {o : DecodeOutcome} {s : State} (h : ∀ t p, o = .packet t p → s.frm.buf = p) :
    finishDecode o s = .next (endDecode o s) := by
  cases o
  case packet t p =>
    simp only [finishDecode]
    split
    · next i hi => rw [exec_wire (decodeWireType_value hi), h t p rfl]
    · rfl
  all_goals rfl

/-- The same for the outcome of a read step. -/
theorem finishDecode_readStep {s s' : State} {o : DecodeOutcome} (h : readStep s = some (some o, s')) :
    finishDecode o s' = .next (endDecode o s') := by
  obtain ⟨n, f, rfl, -, -, -, hpk⟩ := readStep_spec h
  exact finishDecode_eq (fun t p e => (hpk t p (by rw [e])).2)

/-- A read step keeps FRM's registers in agreement with its phase. -/
theorem readStep_consistent {s s' : State} {o : Option DecodeOutcome} (h : readStep s = some (o, s'))
    (hc : s.frm.consistent = true) : s'.frm.consistent = true := by
  unfold readStep at h
  split at h
  · cases h
  · simp only [Option.some.injEq] at h
    unfold headerStep at h
    split at h
    · split at h
      · next h0 =>
        simp only [Prod.mk.injEq] at h
        obtain ⟨rfl, rfl⟩ := h
        rw [Frm.consistent, Bool.and_eq_true, decide_eq_true_eq, decide_eq_true_eq]
        exact ⟨by rw [tobe16_be16, tobe16_be16]; rfl, by rw [h0]; rfl⟩
      · next h0 =>
        simp only [Prod.mk.injEq] at h
        obtain ⟨rfl, rfl⟩ := h
        rw [Frm.consistent, Bool.and_eq_true, decide_eq_true_eq, decide_eq_true_eq]
        exact ⟨by rw [tobe16_be16, tobe16_be16]; rfl, h0⟩
    · simp only [Prod.mk.injEq] at h
      obtain ⟨rfl, rfl⟩ := h
      rfl
  · next hp =>
    have hl := Link.readBytes_length_le s.link s.frm.len.toNat
    simp only [Option.some.injEq, payloadStep] at h
    split at h
    · simp only [Prod.mk.injEq] at h
      obtain ⟨rfl, rfl⟩ := h
      rfl
    · simp only [Prod.mk.injEq] at h
      obtain ⟨rfl, rfl⟩ := h
      simp only [Frm.consistent, hp, Bool.and_eq_true, decide_eq_true_eq] at hc ⊢
      exact ⟨hc.1, by omega⟩
  · simp only [Option.some.injEq] at h
    unfold footerStep at h
    split at h
    · split at h <;>
      · simp only [Prod.mk.injEq] at h
        obtain ⟨rfl, rfl⟩ := h
        rfl
    · simp only [Prod.mk.injEq] at h
      obtain ⟨rfl, rfl⟩ := h
      rfl
/-! ### Steps -/

/-- All that a step can do. -/
inductive Stepped (s : State) : State → Prop where
  /-- The block waits for a request. -/
  | waits : s.blockMoves = true → s.op = .none → Stepped s { s with agenda := s.agenda.tail }
  /-- EXECUTE sends its request frame. -/
  | sends : s.blockMoves = true → s.op = .execute → s.cor.phase = .send →
      Stepped s (sendStep { s with agenda := s.agenda.tail })
  /-- A read step goes on to the next phase. -/
  | reads (s' : State) : s.blockMoves = true → s.decoding = true →
      readStep { s with agenda := s.agenda.tail } = some (none, s') → Stepped s s'
  /-- A read step ends the decode. -/
  | ends (o : DecodeOutcome) (s' : State) : s.blockMoves = true → s.decoding = true →
      readStep { s with agenda := s.agenda.tail } = some (some o, s') → Stepped s (endDecode o s')
  /-- A host request is admitted. -/
  | runs (w : BitVec 32) (pin : Bytes) (rest : List Event) (i : Instr) (t : State) :
      s.agenda = .hostRequest w pin :: rest → decodeRequest w pin = .instr i →
      HostRun { s with agenda := rest } i t → Stepped s t
  /-- A host request is refused. -/
  | refuses (w : BitVec 32) (pin : Bytes) (rest : List Event) (r : Refusal) :
      s.agenda = .hostRequest w pin :: rest →
      Stepped s { s with agenda := rest, refusals := s.refusals ++ [r] }
  /-- The device sends bytes. -/
  | delivers (bytes : Bytes) (rest : List Event) : s.agenda = .deviceSends bytes :: rest →
      Stepped s { s with agenda := rest, link := s.link.deliver bytes }
  /-- A reset. -/
  | resets (rest : List Event) : s.agenda = .resetPulse :: rest →
      Stepped s ({ s with agenda := rest } : State).resetBlock

/-- The block's turn, from the head of the agenda or because the agenda is empty. -/
theorem step_of_blockMoves {s : State} (h : s.blockMoves = true) :
    step s = blockTurn { s with agenda := s.agenda.tail } := by
  obtain ⟨P, k, f, c, o, l, agenda, rs, fs, fc⟩ := s
  unfold State.blockMoves at h
  cases agenda with
  | nil => rfl
  | cons e rest => cases e <;> simp_all [step, takeTurn]

/-- The read turn, with the end of a decode done by the one operation. -/
theorem readTurn_eq (s : State) :
    readTurn s =
      match readStep s with
      | none => .fault .phaseMismatch
      | some (none, s') => .next s'
      | some (some o, s') => .next (endDecode o s') := by
  unfold readTurn
  rcases h : readStep s with _ | ⟨_ | o, s'⟩
  · rfl
  · rfl
  · exact finishDecode_readStep h

/-- A read step neither reads nor writes the agenda. -/
theorem readStep_agenda (s : State) (a : List Event) :
    readStep { s with agenda := a } = (readStep s).map (fun r => (r.1, { r.2 with agenda := a })) := by
  simp only [readStep, headerStep, payloadStep, footerStep]
  repeat' split
  all_goals simp_all [State.tsel]

theorem blockTurn_of_decoding {s : State} (h : s.decoding = true) : blockTurn s = readTurn s := by
  unfold State.decoding at h
  unfold blockTurn
  split at h <;> simp_all

/-- The block's turn in a decode is the read step, and, where that ends the decode, what the operation in progress does with the
outcome. -/
theorem step_of_decoding {s s' : State} {o : Option DecodeOutcome} (hb : s.blockMoves = true)
    (hd : s.decoding = true) (h : readStep s = some (o, s')) :
    step s = .next (o.elim { s' with agenda := s.agenda.tail }
      (fun o => endDecode o { s' with agenda := s.agenda.tail })) := by
  have hr := readStep_agenda s s.agenda.tail
  rw [h] at hr
  simp only [Option.map_some] at hr
  rw [step_of_blockMoves hb, blockTurn_of_decoding (by simpa [State.decoding] using hd)]
  unfold readTurn
  rw [hr]
  cases o with
  | none => rfl
  | some o => exact finishDecode_readStep hr

theorem readTurn_cases {s t : State} (h : readTurn s = .next t) :
    readStep s = some (none, t) ∨ ∃ o s', readStep s = some (some o, s') ∧ t = endDecode o s' := by
  unfold readTurn at h
  split at h
  · cases h
  · next s' hr => cases h; exact .inl hr
  · next o s' hr =>
    rw [finishDecode_readStep hr] at h
    cases h
    exact .inr ⟨o, s', hr, rfl⟩

theorem step_cases {s t : State} (h : step s = .next t) : Stepped s t := by
  have block : s.blockMoves = true → Stepped s t := by
    intro hb
    rw [step_of_blockMoves hb] at h
    unfold blockTurn at h
    have reading : s.decoding = true → readTurn { s with agenda := s.agenda.tail } = .next t → Stepped s t := by
      intro hd hr
      obtain hs | ⟨o, s', hs, rfl⟩ := readTurn_cases hr
      · exact .reads t hb hd hs
      · exact .ends o s' hb hd hs
    split at h
    · next ho => cases h; exact .waits hb ho
    · next tmo ho => exact reading (by simp only at ho; simp [State.decoding, ho]) h
    · next ho =>
      simp only at ho
      split at h
      · cases h
      · next hp => cases h; exact .sends hb ho hp
      · next hp => exact reading (by simp only at hp; simp [State.decoding, ho, hp]) h
  rcases ha : s.agenda with _ | ⟨e, rest⟩
  · exact block (by simp [State.blockMoves, ha])
  · cases e
    case hostRequest w pin =>
      simp only [step, takeTurn, ha, hostTurn] at h
      split at h
      · next i hi =>
        cases hx : exec i { s with agenda := rest }
        case next t' =>
          rw [hx] at h
          cases h
          exact .runs w pin rest i t ha hi (exec_host_cases (decodeRequest_is_host hi _) hx)
        case fault f => exact absurd hx (exec_ne_fault _ _ _)
        case refused r =>
          rw [hx] at h
          cases h
          exact .refuses w pin rest r ha
      · cases h; exact .refuses w pin rest _ ha
    case deviceSends bytes =>
      simp only [step, takeTurn, ha] at h
      cases h
      exact .delivers bytes rest ha
    case blockTurn => exact block (by simp [State.blockMoves, ha])
    case resetPulse =>
      simp only [step, takeTurn, ha] at h
      cases h
      exact .resets rest ha

/-! ### Runs -/

@[simp] theorem runTurns_zero (s : State) : runTurns 0 s = .next s := rfl

theorem runTurns_of_step {s t : State} (h : step s = .next t) (n : Nat) : runTurns (n + 1) s = runTurns n t := by
  simp only [runTurns, h]

/-- A run of `a` turns and then of `b` more. -/
theorem runTurns_add {a : Nat} (b : Nat) {s t : State} (h : runTurns a s = .next t) :
    runTurns (a + b) s = runTurns b t := by
  induction a generalizing s with
  | zero => cases h; rw [Nat.zero_add]
  | succ a ih =>
    rw [Nat.add_right_comm]
    cases hs : step s <;> simp only [runTurns, hs, reduceCtorEq] at h ⊢
    exact ih h

/-- One turn of the host interface's run, by what the step answers. -/
theorem hostRun_succ (M : Host.Core) (n : Nat) (s : M.State) :
    (∀ t, M.step s = .next t → M.run (n + 1) s = M.run n t) ∧
    (∀ f, M.step s = .fault f → M.run (n + 1) s = .fault f) ∧
    (∀ r, M.step s = .refused r → M.run (n + 1) s = .refused r) := by
  refine ⟨fun t h => ?_, fun f h => ?_, fun r h => ?_⟩ <;> simp only [Host.Core.run, h]

/-- The run of the claims is the host interface's run of the core. -/
theorem runTurns_eq_run (n : Nat) (s : State) : runTurns n s = Host.Core.run Sys2Proof.core n s := by
  induction n generalizing s with
  | zero => rfl
  | succ n ih =>
    obtain ⟨hn, hf, hr⟩ := hostRun_succ Sys2Proof.core n s
    cases hs : step s <;> simp only [runTurns, hs]
    · exact (ih _).trans (hn _ hs).symm
    · exact (hf _ hs).symm
    · exact (hr _ hs).symm

end Sys2Proof.Machine
end

