-- ==== Sys2Proof/Tests/Slice0.lean ====
section
/-! SUPPORT. Tests with expected values from the spec (spec/95_test_vectors.md and the rules' own tables), and the witnesses that the
hypotheses of the statements can be met. -/

namespace Sys2Proof.Tests

open Sys2Proof Sys2Proof.Machine

/-! ### Helpers -/

/-- What is seen of an answer's next state. -/
def after {α : Type} (f : State → α) : Answer State → Option α
  | .next t => some (f t)
  | .fault _ => none
  | .refused _ => none

/-- The reason of a refusal. -/
def reasonOf : Answer State → Option Refusal
  | .next _ => none
  | .fault _ => none
  | .refused r => some r

/-- The machine after reset, with an operation in progress and bytes on RX. -/
def running (op : BlkOp) (frm : Machine.Frm) (cor : Cor) (rx : Bytes) : State :=
  { State.reset with op := op, frm := frm, cor := cor, link := { Link.fresh with rx := rx } }

/-- CKS with the given accumulators, nothing in progress. -/
def withCks (m l : Byte) : State := { State.reset with cks := ⟨m, l⟩ }

/-- The transport is unusable, nothing in progress. -/
def dead : State := { State.reset with cor := { Cor.reset with dead := true } }

/-- A DECODE in the header phase, with bytes on RX. -/
def decodeHdr (rx : Bytes) : State := running (.decode false) { Frm.reset with phase := .hdr } Cor.reset rx

/-- FRM past a header, in the given phase. -/
def frmAt (ph : FrmPhase) (t : I16) (len : U16) (buf : Bytes) : Machine.Frm := ⟨ph, tobe16 t ++ tobe16 len, t, len, buf, 0⟩

/-- A DECODE in the payload phase. -/
def decodePay (t : I16) (len : U16) (rx : Bytes) : State := running (.decode false) (frmAt .pay t len []) Cor.reset rx

/-- A DECODE in the footer phase. -/
def decodeFtr (t : I16) (p rx : Bytes) : State :=
  running (.decode false) (frmAt .ftr t (BitVec.ofNat 16 p.length) p) Cor.reset rx

/-- COR in the given phase of the `n`-th attempt of a request of type `t` with an empty payload. -/
def corAt (ph : CorPhase) (n : BitVec 2) (t : I16) : Cor := ⟨ph, n, t, [], false, false, false⟩

/-- An EXECUTE of type `t` at its first send. -/
def executeSend (t : I16) (rx : Bytes) : State := running .execute Frm.reset (corAt .send 0 t) rx

/-- An EXECUTE of type `t` in the footer phase of its `n`-th attempt, after a header and payload of type `rt`. -/
def executeFtr (n : BitVec 2) (t rt : I16) (p rx : Bytes) : State :=
  running .execute (frmAt .ftr rt (BitVec.ofNat 16 p.length) p) (corAt .recv n t) rx

/-- C-9 before its footer is read. -/
def malformedFtr : State := executeFtr 1 4 0xFFFF [0xFF, 0xFF, 0xFF, 0xFB, 0x00] [0x52, 0x55]

/-- The end of a decode of payload `p` in an EXECUTE of type `t`. -/
def executeEnd (n : BitVec 2) (t : I16) (p : Bytes) : State :=
  running .execute { Frm.reset with buf := p } (corAt .recv n t) []

/-- The end of a decode of payload `p` in a DECODE. -/
def decodeEnd (p : Bytes) : State := running (.decode false) { Frm.reset with buf := p } Cor.reset []

/-! ### Well-formedness: ill-formed terms are refused -/

theorem test_wf_encode_limit :
    (Instr.encode 1 (List.replicate 65535 0)).wf = true ∧ (Instr.encode 1 (List.replicate 65536 0)).wf = false := by
  simp only [Instr.wf, List.length_replicate]
  decide

theorem test_wf_execute_limit :
    (Instr.execute false 1 (List.replicate 65535 0)).wf = true ∧
      (Instr.execute false 1 (List.replicate 65536 0)).wf = false := by
  simp only [Instr.wf, List.length_replicate]
  decide

/-! ### Decoding: words written out from R60, R61, R63 and the vectors E-1 to E-15 -/

theorem test_decode_cksInit : decodeRequest 0b0000000000000000_00000000_0000_0_000 [] = .instr .cksInit := by decide

theorem test_decode_cksFeed : decodeRequest 0b0000000000000000_10101011_0000_0_001 [] = .instr (.cksFeed 0xAB) := by
  decide

theorem test_decode_cksRead : decodeRequest 0b0000000000000000_00000000_0000_0_010 [] = .instr .cksRead := by decide

theorem test_decode_encode :
    decodeRequest 0b0000000000000011_00000000_0000_0_011 [0xAB, 0xCD] = .instr (.encode 3 [0xAB, 0xCD]) := by decide

theorem test_decode_decode :
    decodeRequest 0b0000000000000000_00000000_0000_0_100 [] = .instr (.decode false) ∧
      decodeRequest 0b0000000000000000_00000000_0000_1_100 [] = .instr (.decode true) := by decide

theorem test_decode_execute :
    decodeRequest 0b0000000000000010_00000000_0000_1_101 [0x01, 0x02] = .instr (.execute true 2 [0x01, 0x02]) ∧
      decodeRequest 0b0111111111111111_00000000_0000_0_101 [] = .instr (.execute false 32767 []) := by decide

theorem test_decode_reserved :
    decodeRequest 0b1000000000000000_00000000_0001_0_110 [0x05] =
        .instr (.reserved6 0b1000000000000000_00000000_0001_0 [0x05]) ∧
      decodeRequest 0b0000000000000000_00000000_0000_0_111 [] = .instr (.reserved7 0 []) := by decide

/-- Frame bytes 0 and 1 of each wire command type, at the reference values of R71. -/
theorem test_decode_wire_types :
    decodeWireBytes Params.reference 0x00 0x01 = some .ctPicPing ∧
    decodeWireBytes Params.reference 0x00 0x02 = some .ctPicErase ∧
    decodeWireBytes Params.reference 0x00 0x03 = some .ctPicRead ∧
    decodeWireBytes Params.reference 0x00 0x04 = some .ctPicWrite ∧
    decodeWireBytes Params.reference 0x00 0x64 = some .ctProgPing ∧
    decodeWireBytes Params.reference 0x00 0x65 = some .ctProgConnect ∧
    decodeWireBytes Params.reference 0x00 0x66 = some .ctProgDisconnect ∧
    decodeWireBytes Params.reference 0x00 0x67 = some .ctProgReset ∧
    decodeWireBytes Params.reference 0x00 0x68 = some .ctProgDeviceStatus ∧
    decodeWireBytes Params.reference 0x00 0x69 = some .ctProgChipErase ∧
    decodeWireBytes Params.reference 0xFF 0xFF = some .failedType ∧
    decodeWireBytes Params.reference 0x64 0x00 = none := by decide

/-- E-3, E-6, E-7, E-8, and a DECODE with a payload. -/
theorem test_decode_field_nonzero :
    decodeRequest 0x0000AB00 [] = .rejected .fieldNonzero ∧ decodeRequest 0x00000012 [] = .rejected .fieldNonzero ∧
    decodeRequest 0x0000000A [] = .rejected .fieldNonzero ∧ decodeRequest 0x00000002 [0x00] = .rejected .fieldNonzero ∧
    decodeRequest 0x00000004 [0x00] = .rejected .fieldNonzero ∧ decodeRequest 0x0000000B [] = .rejected .fieldNonzero := by
  decide

/-- E-10, F-E19. -/
theorem test_decode_payload_too_long : decodeRequest 0x00000003 (List.replicate 65536 0) = .rejected .payloadTooLong := by
  have h3 : opField 0x00000003 = 3 := by decide
  have hf : byteField 0x00000003 = 0 ∧ rsvField 0x00000003 = 0 ∧ tmoField 0x00000003 = false := by decide
  simp only [decodeRequest, h3, hf, List.length_replicate]
  decide

theorem test_decodeTableWord_host :
    decodeTableWord 32 0x00000000 = some .cksInit ∧ decodeTableWord 32 0x0000AB01 = some (.cksFeed 0xAB) ∧
    decodeTableWord 32 0x00000002 = some .cksRead ∧ decodeTableWord 32 0xFFFF0003 = some (.encode 0xFFFF []) ∧
    decodeTableWord 32 0x0000000C = some (.decode true) ∧ decodeTableWord 32 0x0002000D = some (.execute true 2 []) ∧
    decodeTableWord 32 0x0000000E = some (.reserved6 1 []) ∧ decodeTableWord 32 0xFFFFFFFF = some (.reserved7 0x1FFFFFFF []) ∧
    decodeTableWord 32 0x00000012 = none := by decide

theorem test_decodeTableWord_wire :
    decodeTableWord 16 0x0064 = some .ctProgPing ∧ decodeTableWord 16 0xFFFF = some .failedType ∧
    decodeTableWord 16 0x0000 = none := by decide

/-! ### The line syntax (R75) -/

theorem test_parse_feed : parseLine "CKS_FEED 0xAB   ; the byte".toList = some (.cksFeed 0xAB) := by decide

theorem test_parse_execute :
    parseLine "EXECUTE.EXT CT_PIC_ERASE, [00 0A]".toList = some (.execute true (.name .ctPicErase) [0x00, 0x0A]) := by decide

theorem test_parse_encode : parseLine "ENCODE -1, []".toList = some (.encode (.literal 0xFFFF) []) := by decide

theorem test_parse_rejects_range : parseLine "ENCODE 32768, []".toList = none := by decide

/-! ### CKS -/

/-- W1. -/
theorem test_checksum_fixture : checksum [0x00, 0x01, 0x00, 0x00] = 0xB3F0 := by decide

/-- K-22. -/
theorem test_checksum_check_value :
    checksum [0x31, 0x32, 0x33, 0x34, 0x35, 0x36, 0x37, 0x38, 0x39] = 0x29B1 := by decide

/-- R102. -/
theorem test_cksInit : after State.cks (exec .cksInit (withCks 0x12 0x34)) = some ⟨0xFF, 0xFF⟩ := by decide

/-- K-S3. -/
theorem test_cksFeed : after State.cks (exec (.cksFeed 0x56) (withCks 0x12 0x34)) = some ⟨0x3C, 0x40⟩ := by decide

/-- K-S6: the bits shifted out are dropped. -/
theorem test_cksFeed_masks : after State.cks (exec (.cksFeed 0xFF) (withCks 0x00 0x00)) = some ⟨0x1E, 0xF0⟩ := by decide

/-- P1, and R104: the accumulators stay. -/
theorem test_cksRead :
    after (fun t => (t.results, t.cks)) (exec .cksRead (withCks 0xB3 0xF0)) = some ([.value 0xB3F0], ⟨0xB3, 0xF0⟩) := by
  decide

/-! ### FRM -/

/-- F-E7. -/
theorem test_encode :
    after State.results (exec (.encode 3 [0xAB, 0xCD]) State.reset) =
      some [.frame [0x00, 0x03, 0x00, 0x02, 0xAB, 0xCD, 0x47, 0xC7]] := by decide

/-- F-E3, and R120: a negative type while `COR.DEAD` is 1. -/
theorem test_encode_dead :
    after (fun t => (t.results, t.link.tx)) (exec (.encode 0xFFFF []) dead) =
      some ([.frame [0xFF, 0xFF, 0x00, 0x00, 0x00, 0x00]], []) := by decide

/-- R122. -/
theorem test_decode_starts :
    after (fun t => (t.op, t.frm.phase, t.results)) (exec (.decode true) State.reset) =
      some (.decode true, .hdr, []) := by decide

/-- E-17. -/
theorem test_decode_dead : reasonOf (exec (.decode false) dead) = some .corDead := by decide

/-- F-D5. -/
theorem test_short_header :
    after (fun t => (t.results, t.link.rx, t.op)) (step (decodeHdr [0x00, 0x01])) = some ([.shortHeader], [], .none) := by
  decide

/-- F-D1, first read: no payload read is made for length 0. -/
theorem test_header_zero_length :
    after (fun t => (t.frm.phase, t.frm.type, t.frm.len, t.link.rx)) (step (decodeHdr [0x00, 0x01, 0x00, 0x00, 0xB3, 0xF0])) =
      some (.ftr, 1, 0, [0xB3, 0xF0]) := by decide

/-- F-D2, second read. -/
theorem test_payload :
    after (fun t => (t.frm.phase, t.frm.buf, t.link.rx)) (step (decodePay 3 2 [0xAB, 0xCD, 0x47, 0xC7])) =
      some (.ftr, [0xAB, 0xCD], [0x47, 0xC7]) := by decide

/-- F-D6, second read. -/
theorem test_short_payload :
    after (fun t => (t.results, t.link.rx)) (step (decodePay 1 2 [0xAB])) = some ([.shortPayload], []) := by decide

/-- F-D2, third read. -/
theorem test_footer :
    after (fun t => (t.results, t.frm.phase, t.op)) (step (decodeFtr 3 [0xAB, 0xCD] [0x47, 0xC7])) =
      some ([.packet 3 [0xAB, 0xCD]], .idle, .none) := by decide

/-- F-D9, second read. -/
theorem test_checksum_mismatch :
    after State.results (step (decodeFtr 1 [] [0xB3, 0xF1])) = some [.checksumMismatch] := by decide

/-! ### COR -/

/-- E-14. -/
theorem test_execute_starts :
    after (fun t => (t.op, t.cor.phase, t.cor.type, t.link.tx)) (exec (.execute false 32767 []) State.reset) =
      some (.execute, .send, 32767, []) := by decide

/-- E-12 and E-16: the type is looked at before `COR.DEAD` (R188). -/
theorem test_execute_refused :
    reasonOf (exec (.execute false 0xFFFF []) dead) = some .corTypeNotPositive ∧
      reasonOf (exec (.execute false 1 []) dead) = some .corDead := by decide

/-- P3, the send step. -/
theorem test_send :
    after (fun t => (t.link.tx, t.cor.att, t.cor.phase, t.frm.phase)) (step (executeSend 1 [])) =
      some ([0x00, 0x01, 0x00, 0x00, 0xB3, 0xF0], 1, .recv, .hdr) := by decide

/-- C-10, its third response: the unrelated type 0 exhausts EXECUTE. -/
theorem test_exhausted :
    after (fun t => (t.results, t.cor.dead, t.cor.fault)) (step (executeFtr 3 4 0 [] [0x84, 0xC0])) =
      some ([.transportExhausted], true, false) := by decide

/-- C-10, its first response: a checksum mismatch is tried again, though the type is the failure marker's. -/
theorem test_retry :
    after (fun t => (t.results, t.cor.phase, t.cor.dead))
        (step (executeFtr 1 4 0xFFFF [0xFF, 0xFF, 0xFF, 0xFB] [0x50, 0x00])) =
      some ([], .send, false) := by decide

/-! ### Reserved operation codes: R63 is looked at first (R188) -/

theorem test_reserved6 : reasonOf (exec (.reserved6 0x1FFFFFFF [0x00]) (executeSend 1 [])) = some .encReservedOp := by decide

theorem test_reserved7 : reasonOf (exec (.reserved7 0 []) State.reset) = some .encReservedOp := by decide

/-! ### Wire command types: the packet in a DECODE (R122), equality in an EXECUTE (R154 to R156) -/

theorem test_ctPicPing :
    after State.results (exec .ctPicPing (decodeEnd [])) = some [.packet 1 []] ∧
      after State.results (exec .ctPicPing (executeEnd 1 1 [])) = some [.response []] := by decide

theorem test_ctPicErase :
    after State.results (exec .ctPicErase (decodeEnd [0x07])) = some [.packet 2 [0x07]] ∧
      after (fun t => t.cor.phase) (exec .ctPicErase (executeEnd 1 3 [])) = some .send := by decide

/-- C-2, its third response. -/
theorem test_ctPicRead :
    after State.results (exec .ctPicRead (executeEnd 3 3 [0xDE, 0xAD, 0xBE, 0xEF])) =
      some [.response [0xDE, 0xAD, 0xBE, 0xEF]] := by decide

theorem test_ctPicWrite : after State.results (exec .ctPicWrite (decodeEnd [])) = some [.packet 4 []] := by decide

theorem test_ctProgPing : after State.results (exec .ctProgPing (decodeEnd [])) = some [.packet 100 []] := by decide

theorem test_ctProgConnect : after State.results (exec .ctProgConnect (decodeEnd [])) = some [.packet 101 []] := by decide

theorem test_ctProgDisconnect : after State.results (exec .ctProgDisconnect (decodeEnd [])) = some [.packet 102 []] := by decide

theorem test_ctProgReset : after State.results (exec .ctProgReset (decodeEnd [])) = some [.packet 103 []] := by decide

theorem test_ctProgDeviceStatus :
    after State.results (exec .ctProgDeviceStatus (decodeEnd [])) = some [.packet 104 []] := by decide

theorem test_ctProgChipErase : after State.results (exec .ctProgChipErase (decodeEnd [])) = some [.packet 105 []] := by decide

/-- C-4: the code −5, big-endian. -/
theorem test_failedType :
    after (fun t => (t.results, t.cor.dead)) (exec .failedType (executeEnd 1 101 [0xFF, 0xFF, 0xFF, 0xFB])) =
      some ([.deviceError (BitVec.ofInt 32 (-5))], false) := by decide

/-- C-9. -/
theorem test_failedType_malformed :
    after (fun t => (t.results, t.cor.dead, t.cor.fault))
        (exec .failedType (executeEnd 1 4 [0xFF, 0xFF, 0xFF, 0xFB, 0x00])) =
      some ([.malformedFailure [0xFF, 0xFF, 0xFF, 0xFB, 0x00]], true, true) := by decide

/-- R183: after C-9's fault a reset clears the flags, and the run still counts as one that reached the fault. -/
theorem test_fault_outlives_reset :
    after (fun t => (t.cor.fault, t.cor.dead, t.faultReached, t.good))
        (runTurns 2 { malformedFtr with agenda := [.blockTurn, .resetPulse] }) = some (false, false, true, false) ∧
      after (fun t => (t.cor.fault, t.good)) (step malformedFtr) = some (true, false) := by decide

/-! ### Placing an instruction where the next step meets it -/

theorem test_withFetchWord_host :
    after State.results (step (State.reset.withFetchWord 32 0x00000002)) = some [.value 0xFFFF] ∧
      after (fun t => t.op) (step (State.reset.withFetchWord 32 0x0000000C)) = some (.decode true) ∧
      after State.refusals (step (State.reset.withFetchWord 32 0x00000006)) = some [.encReservedOp] := by decide

theorem test_withFetchWord_wire :
    after State.results (step (State.reset.withFetchWord 16 0x0064)) = some [.packet 100 []] ∧
      after State.results (step (State.reset.withFetchWord 16 0xFFFF)) = some [.packet 0xFFFF []] := by decide

/-- P6: a refused request leaves no record, and the machine goes on. -/
theorem test_refusal_recorded :
    after (fun t => (t.refusals, t.results)) (step (dead.withRequest 0x00640005 [])) = some ([.corDead], []) := by decide

/-! ### Witnesses: the hypotheses of each statement can be met -/

/-- A state in which a host operation is in progress. -/
def busy : State := executeSend 1 []

theorem witness_CksInitSetsBothAccumulators : State.reset.busy = false ∧ busy.busy = true := by decide

theorem witness_CksFeedAppliesOneStep : (withCks 0xAB 0xCD).busy = false ∧ busy.busy = true := by decide

theorem witness_CksReadPresentsTheValue : (withCks 0x00 0xFF).busy = false ∧ busy.busy = true := by decide

theorem witness_ChecksumDetectsEveryOneBitChange : (7 : Nat) < 8 ∧ (0 : Nat) < 8 := by decide

theorem witness_ChecksumExpansionComputesChecksum : State.reset.busy = false := by decide

theorem witness_FrameLayoutIsHeaderPayloadFooter :
    (List.replicate 65535 (0 : Byte)).length ≤ 65535 ∧ ([] : Bytes).length ≤ 65535 := by
  simp only [List.length_replicate]
  decide

/-- One clause each: a payload at the limit, one past it, and a busy block. -/
theorem witness_EncodePresentsTheFrame :
    (List.replicate 65535 (0 : Byte)).length ≤ 65535 ∧ 65535 < (List.replicate 65536 (0 : Byte)).length ∧
      State.reset.busy = false ∧ busy.busy = true := by
  simp only [List.length_replicate]
  decide

theorem witness_DecodeStartsAndEndsWithItsOutcome :
    (State.reset.busy = false ∧ State.reset.cor.dead = false) ∧ busy.busy = true ∧
      (dead.busy = false ∧ dead.cor.dead = true) ∧ (decodeEnd [0x01]).op = .decode false := by decide

/-- One clause each: a length, length 0, a header one byte short, a whole payload, a payload one byte short. -/
theorem witness_HeaderAndPayloadStepsReadAndParse :
    ((decodeHdr [0, 1, 0, 1]).blockMoves = true ∧ (decodeHdr [0, 1, 0, 1]).decoding = true ∧
      (decodeHdr [0, 1, 0, 1]).frm.phase = .hdr ∧ (decodeHdr [0, 1, 0, 1]).link.readBytes 4 = [0, 1, 0, 1] ∧
      be16 0 1 ≠ 0) ∧
    ((decodeHdr [0, 1, 0, 0]).blockMoves = true ∧ (decodeHdr [0, 1, 0, 0]).decoding = true ∧
      (decodeHdr [0, 1, 0, 0]).frm.phase = .hdr ∧ (decodeHdr [0, 1, 0, 0]).link.readBytes 4 = [0, 1, 0, 0] ∧
      be16 0 0 = 0) ∧
    ((decodeHdr [0, 1, 0]).blockMoves = true ∧ (decodeHdr [0, 1, 0]).decoding = true ∧
      (decodeHdr [0, 1, 0]).frm.phase = .hdr ∧ ((decodeHdr [0, 1, 0]).link.readBytes 4).length < 4) ∧
    ((decodePay 1 1 [7]).blockMoves = true ∧ (decodePay 1 1 [7]).decoding = true ∧
      (decodePay 1 1 [7]).frm.phase = .pay ∧
      ((decodePay 1 1 [7]).link.readBytes (decodePay 1 1 [7]).frm.len.toNat).length =
        (decodePay 1 1 [7]).frm.len.toNat) ∧
    ((decodePay 1 1 []).blockMoves = true ∧ (decodePay 1 1 []).decoding = true ∧
      (decodePay 1 1 []).frm.phase = .pay ∧
      ((decodePay 1 1 []).link.readBytes (decodePay 1 1 []).frm.len.toNat).length <
        (decodePay 1 1 []).frm.len.toNat) := by decide

/-- One clause each: F-D1, F-D9, F-D7. -/
theorem witness_FooterStepChecksTheChecksum :
    ((decodeFtr 1 [] [0xB3, 0xF0]).blockMoves = true ∧ (decodeFtr 1 [] [0xB3, 0xF0]).decoding = true ∧
      (decodeFtr 1 [] [0xB3, 0xF0]).frm.phase = .ftr ∧
      (decodeFtr 1 [] [0xB3, 0xF0]).link.readBytes 2 = [0xB3, 0xF0] ∧
      be16 0xB3 0xF0 = checksum ((decodeFtr 1 [] [0xB3, 0xF0]).frm.hdr ++ (decodeFtr 1 [] [0xB3, 0xF0]).frm.buf)) ∧
    ((decodeFtr 1 [] [0xB3, 0xF1]).blockMoves = true ∧ (decodeFtr 1 [] [0xB3, 0xF1]).decoding = true ∧
      (decodeFtr 1 [] [0xB3, 0xF1]).frm.phase = .ftr ∧
      (decodeFtr 1 [] [0xB3, 0xF1]).link.readBytes 2 = [0xB3, 0xF1] ∧
      be16 0xB3 0xF1 ≠ checksum ((decodeFtr 1 [] [0xB3, 0xF1]).frm.hdr ++ (decodeFtr 1 [] [0xB3, 0xF1]).frm.buf)) ∧
    ((decodeFtr 1 [] [0xB3]).blockMoves = true ∧ (decodeFtr 1 [] [0xB3]).decoding = true ∧
      (decodeFtr 1 [] [0xB3]).frm.phase = .ftr ∧ ((decodeFtr 1 [] [0xB3]).link.readBytes 2).length < 2) := by decide

theorem decodeOn_decodeHdr (rx : Bytes) : (decodeHdr rx).decodeOn rx := ⟨⟨false, rfl⟩, rfl, rfl, rfl, rfl⟩

theorem witness_DecodeRefinesThePureFrameDecoder : (decodeHdr [0x00]).decodeOn [0x00] := decodeOn_decodeHdr _

theorem witness_DecodeRoundTripsEveryFrame :
    ([] : Bytes).length ≤ 65535 ∧ (decodeHdr (frame 1 [] ++ [0x00, 0x02])).decodeOn (frame 1 [] ++ [0x00, 0x02]) :=
  ⟨by decide, decodeOn_decodeHdr _⟩

/-- The frame of type 1 and payload `AB` with bit 7 of byte `i` flipped. -/
def flippedAt (i : Nat) : Bytes := (frame 1 [0xAB]).set i ((frame 1 [0xAB]).getD i 0 ^^^ ((1 : Byte) <<< 7))

/-- The first and the last byte of a frame, and the bytes beside the length, 1 and 4. -/
theorem witness_BitFlipOutsideTheLengthGivesMismatch :
    ([0xAB] : Bytes).length ≤ 65535 ∧ (7 : Nat) < 8 ∧
    (∀ i ∈ [0, 1, 4, 6], i < 6 + ([0xAB] : Bytes).length ∧ i ≠ 2 ∧ i ≠ 3 ∧
      (decodeHdr (flippedAt i)).decodeOn (flippedAt i)) :=
  ⟨by decide, by decide, fun i hi => ⟨by revert i; decide, by revert i; decide, by revert i; decide, decodeOn_decodeHdr _⟩⟩

/-- The length that the flip of bit `k` makes of the length `l`. -/
def flippedLen (l k : Nat) : Nat := (BitVec.ofNat 16 l ^^^ ((1 : U16) <<< k)).toNat

/-- The header with that length. -/
def flippedHdr (t : I16) (p : Bytes) (k : Nat) : Bytes := tobe16 t ++ tobe16 (BitVec.ofNat 16 (flippedLen p.length k))

/-- The bytes a frame becomes when bit `k` of its length flips. -/
def flipped (t : I16) (p : Bytes) (k : Nat) : Bytes := flippedHdr t p k ++ (frame t p).drop 4

/-- One clause each. On the frame of the table of R132, bits 15 and 2 lengthen it past its end, bit 0 takes in one footer byte, and
bit 1 shortens it; bit 1 of a length 1 takes in both footer bytes; and the payload `B3 F0` under type 1 is the checksum of the header
that bit 1 makes (K-9), so there the shortened frame passes. -/
theorem witness_BitFlipInTheLengthFollowsTheCaseSplit :
    ([0xAB, 0xCD] : Bytes).length ≤ 65535 ∧
    (15 < 16 ∧ 2 + 2 < flippedLen 2 15 ∧ (decodeHdr (flipped 3 [0xAB, 0xCD] 15)).decodeOn (flipped 3 [0xAB, 0xCD] 15)) ∧
    (2 + 2 < flippedLen 2 2 ∧ (decodeHdr (flipped 3 [0xAB, 0xCD] 2)).decodeOn (flipped 3 [0xAB, 0xCD] 2)) ∧
    (2 + 1 = flippedLen 2 0 ∧ (decodeHdr (flipped 3 [0xAB, 0xCD] 0)).decodeOn (flipped 3 [0xAB, 0xCD] 0)) ∧
    (1 + 2 = flippedLen 1 1 ∧ (decodeHdr (flipped 3 [0xAB] 1)).decodeOn (flipped 3 [0xAB] 1)) ∧
    (flippedLen 2 1 < 2 ∧ (decodeHdr (flipped 3 [0xAB, 0xCD] 1)).decodeOn (flipped 3 [0xAB, 0xCD] 1) ∧
      (((frame 3 [0xAB, 0xCD]).drop 4).drop (flippedLen 2 1)).take 2 ≠
        tobe16 (checksum (flippedHdr 3 [0xAB, 0xCD] 1 ++ [0xAB, 0xCD].take (flippedLen 2 1)))) ∧
    (flippedLen 2 1 < 2 ∧ (decodeHdr (flipped 1 [0xB3, 0xF0] 1)).decodeOn (flipped 1 [0xB3, 0xF0] 1) ∧
      (((frame 1 [0xB3, 0xF0]).drop 4).drop (flippedLen 2 1)).take 2 =
        tobe16 (checksum (flippedHdr 1 [0xB3, 0xF0] 1 ++ [0xB3, 0xF0].take (flippedLen 2 1)))) :=
  ⟨by decide, ⟨by decide, by decide, decodeOn_decodeHdr _⟩, ⟨by decide, decodeOn_decodeHdr _⟩,
    ⟨by decide, decodeOn_decodeHdr _⟩, ⟨by decide, decodeOn_decodeHdr _⟩, ⟨by decide, decodeOn_decodeHdr _, by decide⟩,
    ⟨by decide, decodeOn_decodeHdr _, by decide⟩⟩

/-- Both link models. -/
theorem witness_DecodeCompletesWithinItsBounds :
    ((decodeHdr []).op = .decode false ∧ (decodeHdr []).frm.phase = .hdr ∧ (decodeHdr []).agenda = [] ∧
      (decodeHdr []).link.model = .reference) ∧
    (({ decodeHdr [] with link := { Link.fresh with model := .abstract } } : State).op = .decode false ∧
      ({ decodeHdr [] with link := { Link.fresh with model := .abstract } } : State).frm.phase = .hdr ∧
      ({ decodeHdr [] with link := { Link.fresh with model := .abstract } } : State).agenda = []) := by decide

/-- The types at the edges of R150: 1 and 32767 are admitted, 0 and −32768 are not. -/
theorem witness_ExecuteStartLoadsTheRequest :
    ([] : Bytes).length ≤ 65535 ∧ (State.reset.busy = false ∧ State.reset.cor.dead = false) ∧
    0 < (1 : I16).toInt ∧ 0 < (32767 : I16).toInt ∧ (0 : I16).toInt ≤ 0 ∧ (0x8000 : I16).toInt ≤ 0 ∧
    busy.busy = true ∧ (dead.busy = false ∧ dead.cor.dead = true) := by decide

theorem witness_ExecuteStartLoadsTheRequest_too_long : 65535 < (List.replicate 65536 (0 : Byte)).length := by
  simp only [List.length_replicate]
  decide

theorem witness_SendStepWritesTheRequestFrame :
    busy.blockMoves = true ∧ busy.op = .execute ∧ busy.cor.phase = .send := by decide

theorem witness_MatchingResponseCompletesExecute :
    (executeFtr 1 1 1 [] [0xB3, 0xF0]).blockMoves = true ∧ (executeFtr 1 1 1 [] [0xB3, 0xF0]).op = .execute ∧
      (executeFtr 1 1 1 [] [0xB3, 0xF0]).cor.phase = .recv ∧
      ∃ s', readStep (executeFtr 1 1 1 [] [0xB3, 0xF0]) = some (some (.packet 1 []), s') :=
  ⟨rfl, rfl, rfl, _, rfl⟩

/-- One clause each: C-4 and C-8. -/
theorem witness_FailedResponseCompletesExecuteAtOnce :
    0 < (101 : I16).toInt ∧ Params.reference.failedType.toInt < 0 ∧
    (∃ s', readStep (executeFtr 1 101 0xFFFF [0xFF, 0xFF, 0xFF, 0xFB] [0x50, 0x4D]) =
      some (some (.packet 0xFFFF [0xFF, 0xFF, 0xFF, 0xFB]), s')) ∧
    (∃ s', readStep (executeFtr 1 101 0xFFFF [] [0x00, 0x00]) = some (some (.packet 0xFFFF []), s')) ∧
    ([] : Bytes).length ≠ 4 :=
  ⟨by decide, by decide, ⟨_, rfl⟩, ⟨_, rfl⟩, by decide⟩

/-- One clause each: a mismatch on attempt 2 is tried again, a packet of type 0 on attempt 3 exhausts. -/
theorem witness_TransientOutcomeRetriesOrExhausts :
    ((∃ s', readStep (executeFtr 2 4 4 [] [0x00, 0x00]) = some (some .checksumMismatch, s')) ∧ (2 : BitVec 2).toNat < 3) ∧
    ((∃ s', readStep (executeFtr 3 4 0 [] [0x84, 0xC0]) = some (some (.packet 0 []), s')) ∧ (3 : BitVec 2).toNat = 3 ∧
      (0 : I16) ≠ 4 ∧ (0 : I16) ≠ Params.reference.failedType) :=
  ⟨⟨⟨_, rfl⟩, by decide⟩, ⟨_, rfl⟩, by decide, by decide, by decide⟩

theorem witness_ExecuteCompletesWithinItsBounds :
    busy.inv = true ∧ busy.op = .execute ∧ busy.cor.phase = .send ∧ busy.cor.att = 0 ∧ busy.agenda = [] := by decide

theorem witness_ExecuteRefinesThePureCorrelator :
    busy.op = .execute ∧ busy.cor.phase = .send ∧ busy.cor.att = 0 ∧ busy.agenda = [] ∧ busy.link.model = .reference := by
  decide

/-- The responses stand on RX in turn: types 2 and 0, then the request's own. -/
def thirdMatches : State := executeSend 1 (frame 2 [] ++ frame 0 [0x07] ++ frame 1 [] ++ [0x55])

theorem witness_MatchAfterTwoUnrelatedResponsesSucceeds :
    (thirdMatches.op = .execute ∧ thirdMatches.cor.phase = .send ∧ thirdMatches.cor.att = 0 ∧ thirdMatches.agenda = [] ∧
      thirdMatches.link.model = .reference) ∧
    ((2 : I16) ≠ thirdMatches.cor.type ∧ (2 : I16) ≠ thirdMatches.params.failedType) ∧
    ((0 : I16) ≠ thirdMatches.cor.type ∧ (0 : I16) ≠ thirdMatches.params.failedType) ∧
    thirdMatches.link.rx = frame 2 [] ++ frame 0 [0x07] ++ frame thirdMatches.cor.type [] ++ [0x55] := by decide

/-- Every wire command type has a value, and a DECODE can be in progress. -/
theorem witness_WireTypeInDecodePresentsItsPacket :
    (decodeEnd [0x01]).op = .decode false ∧ wireTypeOf Params.reference .ctPicPing = some 1 ∧
    wireTypeOf Params.reference .ctPicErase = some 2 ∧ wireTypeOf Params.reference .ctPicRead = some 3 ∧
    wireTypeOf Params.reference .ctPicWrite = some 4 ∧ wireTypeOf Params.reference .ctProgPing = some 100 ∧
    wireTypeOf Params.reference .ctProgConnect = some 101 ∧ wireTypeOf Params.reference .ctProgDisconnect = some 102 ∧
    wireTypeOf Params.reference .ctProgReset = some 103 ∧ wireTypeOf Params.reference .ctProgDeviceStatus = some 104 ∧
    wireTypeOf Params.reference .ctProgChipErase = some 105 ∧ wireTypeOf Params.reference .failedType = some 0xFFFF := by
  decide

/-- One clause each: matching; failed with 4 bytes and with 3; unrelated on attempts 2 and 3. -/
theorem witness_WireTypeInExecuteIsClassifiedByEquality :
    (wireTypeOf (executeEnd 1 2 []).params .ctPicErase = some 2 ∧ (executeEnd 1 2 []).op = .execute ∧
      (2 : I16) = (executeEnd 1 2 []).cor.type) ∧
    (wireTypeOf (executeEnd 1 2 [0, 0, 0, 7]).params .failedType = some 0xFFFF ∧
      (0xFFFF : I16) ≠ (executeEnd 1 2 [0, 0, 0, 7]).cor.type ∧
      (0xFFFF : I16) = (executeEnd 1 2 [0, 0, 0, 7]).params.failedType ∧
      (executeEnd 1 2 [0, 0, 0, 7]).frm.buf = [0, 0, 0, 7]) ∧
    (executeEnd 1 2 [0, 0, 7]).frm.buf.length ≠ 4 ∧
    ((1 : I16) ≠ (executeEnd 2 2 []).cor.type ∧ (1 : I16) ≠ (executeEnd 2 2 []).params.failedType ∧
      (executeEnd 2 2 []).cor.att.toNat < 3) ∧
    (executeEnd 3 2 []).cor.att.toNat = 3 := by decide

theorem witness_LinkReadConsumesWhatItReturns :
    Link.fresh.model = .reference ∧ ({ Link.fresh with model := .abstract } : Link).model = .abstract := by decide

/-- The read step of F-D5 takes what is on RX. -/
theorem witness_ReceivedBytesLeaveOnlyByReads :
    (∃ t, step (decodeHdr [0x00, 0x01]) = .next t) ∧ (decodeHdr [0x00, 0x01]).link.model = .reference :=
  ⟨⟨_, rfl⟩, rfl⟩

theorem witness_OnlyTheSendStepWritesTheLink :
    ∃ t, step busy = .next t ∧ t.link.log = busy.link.log ++ [.write (frame 1 [])] := ⟨_, rfl, rfl⟩

/-- Both timeouts, and a step that makes no access. -/
theorem witness_ReadsFollowThePhaseAndTheSelectedTimeout :
    (∃ t, step (decodeHdr []) = .next t ∧ t.link.log = (decodeHdr []).link.log ++ [.read 4 1 []]) ∧
    (∃ t, step { decodeHdr [] with op := .decode true } = .next t ∧
      t.link.log = (decodeHdr []).link.log ++ [.read 4 5 []]) ∧
    (∃ t, step State.reset = .next t) := ⟨⟨_, rfl, rfl⟩, ⟨_, rfl, rfl⟩, ⟨_, rfl⟩⟩

/-- One clause each: a dead block steps, a live one exhausts, a reset comes, and a dead block is idle. -/
theorem witness_DeadFlagIsStickyAndSetOnlyByFatalResults :
    ((∃ t, step dead = .next t) ∧ dead.resetComes = false ∧ dead.cor.dead = true ∧ dead.busy = false) ∧
    ((∃ t, step (executeFtr 3 4 0 [] [0x84, 0xC0]) = .next t) ∧ (executeFtr 3 4 0 [] [0x84, 0xC0]).cor.dead = false) ∧
    ((∃ t, step { dead with agenda := [.resetPulse] } = .next t) ∧
      ({ dead with agenda := [.resetPulse] } : State).resetComes = true) :=
  ⟨⟨⟨_, rfl⟩, rfl, rfl, rfl⟩, ⟨⟨_, rfl⟩, rfl⟩, ⟨⟨_, rfl⟩, rfl⟩⟩

/-- One clause each: a recorded fault stays, C-8 records one, and a reset comes. -/
theorem witness_FaultFlagIsStickyAndSetOnlyByMalformedFailure :
    (∃ t, step { dead with cor := { dead.cor with fault := true } } = .next t) ∧
    (∃ t, step (executeFtr 1 4 0xFFFF [] [0x00, 0x00]) = .next t ∧ t.cor.fault = true) ∧
    (executeFtr 1 4 0xFFFF [] [0x00, 0x00]).cor.fault = false ∧
    (∃ t, step { dead with agenda := [.resetPulse] } = .next t) := ⟨⟨_, rfl⟩, ⟨_, rfl, rfl⟩, rfl, ⟨_, rfl⟩⟩

theorem witness_EachCompletionPresentsOneRecord :
    (∃ t, step (decodeHdr []) = .next t) ∧ (decodeHdr []).resetComes = false ∧ (decodeHdr []).op ≠ .none :=
  ⟨⟨_, rfl⟩, rfl, by decide⟩

/-- One clause each: the block's own step, and the requests of ENCODE, DECODE and EXECUTE. -/
theorem witness_CksRegistersSurviveEveryLinkOperation :
    busy.blockMoves = true ∧ (State.reset.withRequest 0x00030003 []).agenda = [.hostRequest 0x00030003 []] ∧
      opField 0x00030003 = 3 ∧ opField 0x00000004 = 4 ∧ opField 0x00010005 = 5 := by decide

/-- A refusal of each kind in the order of R188, and a request that runs. -/
theorem witness_RefusedRequestChangesNothingAndIsRecorded :
    refusalReason busy 0x00000003 (List.replicate 65536 0) = some .encPayloadTooLong ∧
    refusalReason busy 0x00000016 [] = some .encReservedOp ∧ refusalReason busy 0x00000012 [] = some .encFieldNonzero ∧
    refusalReason busy 0x00000002 [] = some .blkBusy ∧ refusalReason dead 0x00000005 [] = some .corTypeNotPositive ∧
    refusalReason dead 0x00010005 [] = some .corDead ∧ refusalReason dead 0x00000002 [] = none := by
  refine ⟨?_, by decide⟩
  have ho : (opField 3#32).toNat = 3 := by decide
  have hf : rsvField 3#32 = 0#4 ∧ byteField 3#32 = 0#8 ∧ tmoField 3#32 = false := by decide
  have long : ∀ pin : Bytes, pin.length = 65536 → refusalReason busy 0x00000003 pin = some .encPayloadTooLong :=
    fun pin h => by simp [refusalReason, ho, hf, h, Config.maxPayload]
  exact long _ List.length_replicate

theorem witness_ReservedOperationsAreRefused : opField 0xFFFFFFFE = 6 ∧ opField 0x00000007 = 7 := by decide

theorem witness_ResetPulseAbandonsTheOperation :
    ({ decodeHdr [] with agenda := [.resetPulse] } : State).agenda = [.resetPulse] := rfl

theorem witness_ResetMeetsTheInvariant : Params.reference.wf = true := by decide

theorem witness_EveryStepKeepsTheInvariant : busy.inv = true ∧ ∃ t, step busy = .next t := ⟨by decide, _, rfl⟩

theorem witness_MachineNeverStopsUnderTheInvariant :
    State.reset.inv = true ∧ (decodeFtr 1 [] []).inv = true ∧ (decodePay 1 1 []).inv = true := by decide

/-- A step that keeps the premises, one that presents `MalformedFailure`, one that records a refusal, and a reset. -/
theorem witness_GoodStatesComeOnlyFromGoodStates :
    after State.good (step (decodeHdr [])) = some true ∧ malformedFtr.good = true ∧
    after (fun t => (t.good, decide (t.results = malformedFtr.results ++ [.malformedFailure [0xFF, 0xFF, 0xFF, 0xFB, 0x00]])))
      (step malformedFtr) = some (false, true) ∧
    after (fun t => (t.good, t.refusals)) (step (dead.withRequest 0x00640005 [])) = some (false, [.corDead]) ∧
    after State.good (step { busy with agenda := [.resetPulse] }) = some true := by decide

/-- Each clause with a reset among the turns that follow. -/
theorem witness_RunThatReachesTheFaultIsNeverGood :
    (∃ u, ({ Cor.reset with fault := true } : Cor).fault = true ∧
      runTurns 1 { State.reset with cor := { Cor.reset with fault := true }, agenda := [.resetPulse] } = .next u) ∧
    (∃ t u, step { malformedFtr with agenda := [.blockTurn, .resetPulse] } = .next t ∧
      t.results = malformedFtr.results ++ [.malformedFailure [0xFF, 0xFF, 0xFF, 0xFB, 0x00]] ∧ runTurns 1 t = .next u) :=
  ⟨⟨_, rfl, rfl⟩, _, _, rfl, by decide, rfl⟩

/-- One clause each: a request that runs and one that `exec` refuses. -/
theorem witness_StepRunsTheDecodedRequest :
    (decodeRequest 0x00000002 [] = .instr .cksRead ∧ ∃ t, exec .cksRead { State.reset with agenda := [] } = .next t) ∧
    (decodeRequest 0x00000004 [] = .instr (.decode false) ∧
      exec (.decode false) { dead with agenda := [] } = .refused .corDead) := ⟨⟨by decide, _, rfl⟩, by decide, rfl⟩

theorem witness_StepRunsTheDecodedWireType :
    (decodeFtr 1 [] [0xB3, 0xF0]).blockMoves = true ∧ (decodeFtr 1 [] [0xB3, 0xF0]).decoding = true ∧
    (∃ s', readStep (decodeFtr 1 [] [0xB3, 0xF0]) = some (some (.packet 1 []), s')) ∧
    decodeWireType (decodeFtr 1 [] [0xB3, 0xF0]).params 1 = some .ctPicPing := ⟨rfl, rfl, ⟨_, rfl⟩, by decide⟩

theorem witness_TurnsFollowTheAgenda :
    (State.reset.blockMoves = true ∧ State.reset.op = .none) ∧
      ({ busy with agenda := [.deviceSends [0x01]] } : State).agenda = .deviceSends [0x01] :: [] := ⟨by decide, rfl⟩

/-- Every operand form, the payload at its limit. -/
theorem witness_DecodeOfEncodeIsTheInstruction :
    Params.reference.wf = true ∧ (Instr.cksFeed 0xFF).wf = true ∧
      (Instr.execute true 0xFFFF (List.replicate 65535 0)).wf = true :=
  ⟨by decide, by decide, by simp only [Instr.wf, List.length_replicate]; decide⟩

theorem witness_EveryDecodedWordIsItsEncoding :
    decodeEncoded Params.reference (.request ⟨0xFFFF0003, [0x01]⟩) = some (.encode 0xFFFF [0x01]) ∧
    decodeEncoded Params.reference (.wireType 0x0069) = some .ctProgChipErase := by decide

theorem witness_AssembledLinesDecodeToTheirInstructions :
    (linePayload (.execute true (.name .failedType) (List.replicate 65535 0))).length ≤ 65535 := by
  simp only [linePayload, List.length_replicate]
  decide

/-- Two states that differ in the timeout selected for the operation in progress. -/
theorem witness_TimeoutsDecideNothing :
    (decodeHdr []).withoutTimeouts = ({ decodeHdr [] with op := .decode true } : State).withoutTimeouts ∧
      decodeHdr [] ≠ { decodeHdr [] with op := .decode true } := by decide

/-- Two states that differ in FRM.BUF and COR.TYPE, with nothing in progress. -/
theorem witness_UnspecifiedRegistersDecideNothing :
    State.reset.withoutUnspecified =
        ({ State.reset with frm := { Machine.Frm.reset with buf := [7] }, cor := { Cor.reset with type := 3 } } : State).withoutUnspecified ∧
      State.reset ≠ { State.reset with frm := { Machine.Frm.reset with buf := [7] }, cor := { Cor.reset with type := 3 } } := by decide

theorem witness_OnlyTheFailureMarkerIsRead :
    ({ Params.reference with ctPicPing := 7, timeUnit := 9 } : Params).failedType = State.reset.params.failedType ∧
      ({ Params.reference with ctPicPing := 7, timeUnit := 9 } : Params) ≠ State.reset.params := by decide

end Sys2Proof.Tests
end

section
/-! PROOFS. The sticky flags `COR.DEAD` and `COR.FAULT` (spec/10_state.md R29, R30): what any step but a reset does to them is
fixed by the record it presents (`step_flagsFollowRecord`), and both obligations are read off that one fact. -/

namespace Sys2Proof.Machine

/-! ### Admission, and the turn that is a reset -/

theorem State.whenAlive_of_dead {s : State} (h : s.cor.dead = true) (k : Answer State) :
    s.whenAlive k = .refused .corDead := by
  simp [State.whenAlive, h]

theorem whenPayloadFits_of_le {p : Bytes} (h : p.length ≤ 65535) (k : Answer State) : whenPayloadFits p k = k :=
  if_pos h

/-- R122: a dead, idle block refuses DECODE. -/
theorem execDecode_of_dead {s : State} (hi : s.busy = false) (hd : s.cor.dead = true) (tmo : Bool) :
    execDecode tmo s = .refused .corDead := by
  rw [execDecode, State.whenIdle_of_idle hi, State.whenAlive_of_dead hd]

/-- R150: a dead, idle block refuses EXECUTE; the payload and the type are checked before (R188). -/
theorem execExecute_of_dead {s : State} (hi : s.busy = false) (hd : s.cor.dead = true) (tmo : Bool) {t : I16}
    {p : Bytes} (ht : 0 < t.toInt) (hp : p.length ≤ 65535) : execExecute tmo t p s = .refused .corDead := by
  rw [execExecute, whenPayloadFits_of_le hp, State.whenIdle_of_idle hi, if_neg (by omega), State.whenAlive_of_dead hd]

/-- The turn is a reset exactly when the agenda begins with a reset pulse. -/
theorem State.resetComes_iff {s : State} : s.resetComes = true ↔ ∃ rest, s.agenda = .resetPulse :: rest := by
  unfold State.resetComes
  split <;> simp_all

/-! ### The records that set a flag -/

/-- The record comes with `COR.DEAD <- 1` (R29). -/
def Result.setsDead : Result → Bool
  | .transportExhausted => true
  | .malformedFailure _ => true
  | _ => false

/-- The record comes with `COR.FAULT <- 1` (R30). -/
def Result.setsFault : Result → Bool
  | .malformedFailure _ => true
  | _ => false

theorem Result.setsDead_iff {r : Result} :
    r.setsDead = true ↔ r = .transportExhausted ∨ ∃ p, r = .malformedFailure p := by
  cases r <;> simp [Result.setsDead]

theorem Result.setsFault_iff {r : Result} : r.setsFault = true ↔ ∃ p, r = .malformedFailure p := by
  cases r <;> simp [Result.setsFault]

/-- The record a decode presents in a DECODE sets no flag. -/
@[simp] theorem DecodeOutcome.result_setsDead (o : DecodeOutcome) : o.result.setsDead = false := by cases o <;> rfl

@[simp] theorem DecodeOutcome.result_setsFault (o : DecodeOutcome) : o.result.setsFault = false := by cases o <;> rfl

/-! ### The flags follow the record -/

/-- From `s` to `t` at most one record is presented, and each flag is set if that record sets it and stays as it was otherwise. -/
def FlagsFollowRecord (s t : State) : Prop :=
  ∃ r : Option Result, t.results = s.results ++ r.toList ∧
    t.cor.dead = (s.cor.dead || r.any Result.setsDead) ∧ t.cor.fault = (s.cor.fault || r.any Result.setsFault)

/-- Without a record and with both flags as they were. -/
theorem FlagsFollowRecord.of_silent {s t : State} (hr : t.results = s.results) (hd : t.cor.dead = s.cor.dead)
    (hf : t.cor.fault = s.cor.fault) : FlagsFollowRecord s t :=
  ⟨none, by simp [hr], by simp [hd], by simp [hf]⟩

/-- With a record that sets no flag, and with both flags as they were. -/
theorem FlagsFollowRecord.of_harmless {s t : State} (r : Result) (hr : t.results = s.results ++ [r])
    (hrd : r.setsDead = false) (hrf : r.setsFault = false) (hd : t.cor.dead = s.cor.dead)
    (hf : t.cor.fault = s.cor.fault) : FlagsFollowRecord s t :=
  ⟨some r, hr, by simp [hd, hrd], by simp [hf, hrf]⟩

/-- A request at the port sets no flag. -/
theorem HostRun.flagsFollowRecord {s t : State} {i : Instr} (h : HostRun s i t) : FlagsFollowRecord s t := by
  cases h
  case cksInit => exact .of_harmless .ok rfl rfl rfl rfl rfl
  case cksFeed => exact .of_harmless .ok rfl rfl rfl rfl rfl
  case cksRead => exact .of_harmless (.value _) rfl rfl rfl rfl rfl
  case encode => exact .of_harmless (.frame _) rfl rfl rfl rfl rfl
  case decode => exact .of_silent rfl rfl rfl
  case execute => exact .of_silent rfl rfl rfl

/-- The end of an attempt of EXECUTE: here alone the flags are set, and with their records (R155, R156). -/
theorem Settled.flagsFollowRecord {s t : State} (h : Settled s t) : FlagsFollowRecord s t := by
  cases h
  case completes r hr hm =>
    have hrd : r.setsDead = false := by simp [← Bool.not_eq_true, Result.setsDead_iff, hr, hm]
    have hrf : r.setsFault = false := by simp [← Bool.not_eq_true, Result.setsFault_iff, hm]
    exact .of_harmless r rfl hrd hrf rfl rfl
  case malformed p => exact ⟨some (.malformedFailure p), rfl, by simp [Result.setsDead], by simp [Result.setsFault]⟩
  case exhausted => exact ⟨some .transportExhausted, rfl, by simp [Result.setsDead], by simp [Result.setsFault]⟩
  case retries => exact .of_silent rfl rfl rfl

theorem endDecode_flagsFollowRecord (o : DecodeOutcome) (s : State) : FlagsFollowRecord s (endDecode o s) := by
  cases ho : s.op with
  | none => simpa [endDecode, ho] using FlagsFollowRecord.of_silent (s := s) rfl rfl rfl
  | decode tmo =>
    rw [endDecode_decode ho]
    exact .of_harmless o.result rfl (by simp) (by simp) rfl rfl
  | execute => exact (endDecode_settled ho o).flagsFollowRecord

/-- In every step but a reset the flags follow the record. -/
theorem step_flagsFollowRecord {s t : State} (h : step s = .next t) (hr : s.resetComes = false) :
    FlagsFollowRecord s t := by
  cases step_cases h
  case waits => exact .of_silent rfl rfl rfl
  case sends => exact .of_silent rfl rfl rfl
  case reads hs =>
    obtain ⟨n, f, rfl, -⟩ := readStep_spec hs
    exact .of_silent rfl rfl rfl
  case ends o s' _ _ hs =>
    obtain ⟨n, f, rfl, -⟩ := readStep_spec hs
    exact endDecode_flagsFollowRecord o _
  case runs hrun => exact hrun.flagsFollowRecord
  case refuses => exact .of_silent rfl rfl rfl
  case delivers => exact .of_silent rfl rfl rfl
  case resets rest ha => simp [State.resetComes_iff.2 ⟨rest, ha⟩] at hr

theorem FlagsFollowRecord.dead_sticky {s t : State} (h : FlagsFollowRecord s t) (hs : s.cor.dead = true) :
    t.cor.dead = true := by
  obtain ⟨r, -, hd, -⟩ := h
  simp [hd, hs]

theorem FlagsFollowRecord.fault_sticky {s t : State} (h : FlagsFollowRecord s t) (hs : s.cor.fault = true) :
    t.cor.fault = true := by
  obtain ⟨r, -, -, hf⟩ := h
  simp [hf, hs]

theorem FlagsFollowRecord.dead_iff {s t : State} (h : FlagsFollowRecord s t) (hs : s.cor.dead = false) :
    t.cor.dead = true ↔
      t.results = s.results ++ [.transportExhausted] ∨ ∃ p, t.results = s.results ++ [.malformedFailure p] := by
  obtain ⟨_ | r, hr, hd, -⟩ := h
  · simp [hr, hd, hs]
  · simp [hr, hd, hs, Result.setsDead_iff]

theorem FlagsFollowRecord.fault_iff {s t : State} (h : FlagsFollowRecord s t) (hs : s.cor.fault = false) :
    t.cor.fault = true ↔ ∃ p, t.results = s.results ++ [.malformedFailure p] := by
  obtain ⟨_ | r, hr, -, hf⟩ := h
  · simp [hr, hf, hs]
  · simp [hr, hf, hs, Result.setsFault_iff]

/-! ### A reset clears both flags -/

/-- A reset gives COR its reset values (R200). -/
theorem step_cor_of_resetComes {s t : State} (h : step s = .next t) (hr : s.resetComes = true) : t.cor = Cor.reset := by
  obtain ⟨rest, ha⟩ := State.resetComes_iff.1 hr
  simp only [step, takeTurn, ha] at h
  cases h
  exact State.resetBlock_cor _

end Sys2Proof.Machine

/-! ### The obligations -/

namespace Sys2Proof

open Sys2Proof.Machine

/-- Settles O32: the flag follows the record a step presents, a reset loads COR's reset values, and while the flag stands the
admission of DECODE and EXECUTE refuses and that of the other host operations does not read it. -/
theorem deadFlagIsStickyAndSetOnlyByFatalResults : Obligations.DeadFlagIsStickyAndSetOnlyByFatalResults := by
  refine ⟨fun s t h hr => ?_, fun s t h hr => ?_, fun s hd hi => ?_⟩
  · have hf := step_flagsFollowRecord h hr
    exact ⟨hf.dead_sticky, hf.dead_iff⟩
  · rw [step_cor_of_resetComes h hr]; rfl
  · refine ⟨execDecode_of_dead hi hd, fun tmo t p => execExecute_of_dead hi hd tmo, ⟨_, State.whenIdle_of_idle hi _⟩,
      fun c => ⟨_, State.whenIdle_of_idle hi _⟩, ⟨_, State.whenIdle_of_idle hi _⟩, fun ty p hp => ?_⟩
    exact ⟨_, (whenPayloadFits_of_le hp _).trans (State.whenIdle_of_idle hi _)⟩

/-- Settles O33: the flag follows the record a step presents, and a reset loads COR's reset values. -/
theorem faultFlagIsStickyAndSetOnlyByMalformedFailure : Obligations.FaultFlagIsStickyAndSetOnlyByMalformedFailure := by
  refine ⟨fun s t h hr => ?_, fun s t h hr => ?_⟩
  · have hf := step_flagsFollowRecord h hr
    exact ⟨hf.fault_sticky, hf.fault_iff⟩
  · rw [step_cor_of_resetComes h hr]; rfl

end Sys2Proof
end

section
/-! PROOFS. The link (spec/20_memory.md R41, R44): what any step does to the link is one of four things (`step_linkMoved`), and
both obligations are read off the link primitive of each. -/

namespace Sys2Proof.Machine

/-! ### The operations that leave the link alone -/

/-- A host request at the port makes no link access: the start steps only load registers (R122, R151). -/
theorem HostRun.link_eq {s t : State} {i : Instr} (h : HostRun s i t) : t.link = s.link := by
  cases h <;> rfl

theorem Settled.link_eq {s t : State} (h : Settled s t) : t.link = s.link := by
  cases h <;> rfl

@[simp] theorem endDecode_link (o : DecodeOutcome) (s : State) : (endDecode o s).link = s.link := by
  cases ho : s.op with
  | none => simp [endDecode, ho]
  | decode tmo => rw [endDecode_decode ho]
  | execute => exact (endDecode_settled ho o).link_eq

theorem readStep_link {s s' : State} {o : Option DecodeOutcome} (h : readStep s = some (o, s')) :
    ∃ n, s'.link = s.link.read n (timeout s.tsel) := by
  obtain ⟨n, f, rfl, -⟩ := readStep_spec h
  exact ⟨n, rfl⟩

/-- Bytes arrive in the device's turn only. -/
theorem State.arriving_of_blockMoves {s : State} (h : s.blockMoves = true) : s.arriving = [] := by
  unfold State.blockMoves at h
  unfold State.arriving
  split at h <;> simp_all

/-! ### One step -/

/-- All that a step from `s` can do to the link. -/
inductive LinkMoved (s : State) : Link → Prop where
  /-- No access, and nothing arrives. -/
  | kept : s.arriving = [] → LinkMoved s s.link
  /-- The send step of EXECUTE (R152). -/
  | sent : s.blockMoves = true → s.op = .execute → s.cor.phase = .send →
      LinkMoved s (s.link.write (frame s.cor.type s.cor.pay))
  /-- A read step of the decode in progress. -/
  | read (n : Nat) : s.arriving = [] → LinkMoved s (s.link.read n (timeout s.tsel))
  /-- The device sends bytes (R43). -/
  | delivered : LinkMoved s (s.link.deliver s.arriving)

theorem LinkMoved.of_readStep {s s' : State} {o : Option DecodeOutcome} (hb : s.blockMoves = true)
    (h : readStep { s with agenda := s.agenda.tail } = some (o, s')) : LinkMoved s s'.link := by
  obtain ⟨n, hl⟩ := readStep_link h
  rw [hl]
  exact .read n (State.arriving_of_blockMoves hb)

theorem step_linkMoved {s t : State} (h : step s = .next t) : LinkMoved s t.link := by
  cases step_cases h
  case waits hb _ => exact .kept (State.arriving_of_blockMoves hb)
  case sends hb ho hp => exact .sent hb ho hp
  case reads hb _ hs => exact .of_readStep hb hs
  case ends o s' hb _ hs => simpa using LinkMoved.of_readStep hb hs
  case runs w pin rest i ha _ hrun =>
    rw [hrun.link_eq]
    exact .kept (by simp [State.arriving, ha])
  case refuses w pin rest r ha => exact .kept (by simp [State.arriving, ha])
  case delivers bytes rest ha => simpa [State.arriving, ha] using LinkMoved.delivered (s := s)
  case resets rest ha => exact .kept (by simp [State.arriving, ha])

/-- The reference link: what a read returns and what it leaves are the old RX. -/
theorem Link.readBytes_append_read_rx {l : Link} (h : l.model = .reference) (n t : Nat) :
    l.readBytes n ++ (l.read n t).rx = l.rx := by
  rw [Link.readBytes_reference h, Link.read_rx_reference h, List.take_append_drop]

end Sys2Proof.Machine

/-! ### The obligations -/

namespace Sys2Proof

open Sys2Proof.Machine

/-- Settles O29: only a read takes bytes, namely those it returns, and only in a device turn do bytes arrive. -/
theorem receivedBytesLeaveOnlyByReads : Obligations.ReceivedBytesLeaveOnlyByReads := by
  intro s t h hm
  have hl := step_linkMoved h
  generalize t.link = l at hl ⊢
  cases hl
  case kept ha => exact ⟨[], by simp [ha], by simp⟩
  case sent hb _ _ => exact ⟨[], by simp [State.arriving_of_blockMoves hb], by simp⟩
  case read n ha =>
    exact ⟨s.link.readBytes n, by simp [ha, Link.readBytes_append_read_rx hm], fun _ => ⟨n, _, Link.read_log ..⟩⟩
  case delivered => exact ⟨[], by simp, by simp⟩

/-- Settles O30: of the four things a step can do to the link, the send step's write alone touches TX or records a write. -/
theorem onlyTheSendStepWritesTheLink : Obligations.OnlyTheSendStepWritesTheLink := by
  intro s t h
  have hl := step_linkMoved h
  generalize t.link = l at hl ⊢
  cases hl
  case kept => exact .inl ⟨rfl, by simp⟩
  case sent hb ho hp => exact .inr ⟨hb, ho, hp, rfl, rfl⟩
  case read n _ => exact .inl ⟨Link.read_tx .., by simp⟩
  case delivered => exact .inl ⟨rfl, by simp⟩

end Sys2Proof
end

section
/-! PROOFS. The encodings (spec/30_encoding.md): the layout of a frame (R67, R68), each part of it at its place, and the reserved
operation codes (R63). -/

namespace Sys2Proof.Machine

/-! ### The parts of a frame -/

@[simp] theorem frameHeader_length (t : I16) (p : Bytes) : (frameHeader t p).length = 4 := rfl

@[simp] theorem frame_length (t : I16) (p : Bytes) : (frame t p).length = 6 + p.length := by
  simp [frame, tobe16]
  omega

/-- The bytes before the footer are the header and the payload. -/
theorem frame_take_body (t : I16) (p : Bytes) : (frame t p).take (4 + p.length) = frameHeader t p ++ p :=
  List.take_left' (by simp)

/-- The bytes from 4 on are the payload and the footer. -/
theorem frame_drop_header (t : I16) (p : Bytes) :
    (frame t p).drop 4 = p ++ tobe16 (checksum (frameHeader t p ++ p)) := rfl

/-- The payload's length as a 16-bit value, where it fits (R67). -/
theorem toNat_ofNat_length_of_le {p : Bytes} (h : p.length ≤ 65535) : (BitVec.ofNat 16 p.length).toNat = p.length := by
  rw [BitVec.toNat_ofNat, Nat.mod_eq_of_lt (by omega)]

/-- The byte at place `k` of the footer stands at `4 + |p| + k` of the frame (R68). -/
theorem frame_getD_footer (t : I16) (p : Bytes) (k : Nat) :
    (frame t p).getD (4 + p.length + k) 0 = (tobe16 (checksum (frameHeader t p ++ p))).getD k 0 := by
  have hlen : (frameHeader t p ++ p).length = 4 + p.length := by simp
  rw [frame, ← hlen, List.getD_append_right _ _ _ _ (Nat.le_add_right _ k), Nat.add_sub_cancel_left]

/-! ### The reserved operation codes -/

theorem decodeRequest_of_op_six {w : BitVec 32} (h : opField w = 6) (pin : Bytes) :
    decodeRequest w pin = .instr (.reserved6 (upperField w) pin) := by
  simp [decodeRequest, h]

theorem decodeRequest_of_op_seven {w : BitVec 32} (h : opField w = 7) (pin : Bytes) :
    decodeRequest w pin = .instr (.reserved7 (upperField w) pin) := by
  simp [decodeRequest, h]

end Sys2Proof.Machine

/-! ### The obligations -/

namespace Sys2Proof

open Sys2Proof.Machine

/-- Settles O9: the four header bytes head the frame, the payload follows them, and the footer is the checksum of both. -/
theorem frameLayoutIsHeaderPayloadFooter : Obligations.FrameLayoutIsHeaderPayloadFooter := by
  intro t p hp
  have hlen := toNat_ofNat_length_of_le hp
  refine ⟨frame_length t p, hiByte_toNat t, loByte_toNat t, ?_, ?_, ?_, ?_, ?_⟩
  · exact (hiByte_toNat _).trans (by rw [hlen])
  · exact (loByte_toNat _).trans (by rw [hlen])
  · rw [frame_drop_header, List.take_left]
  · rw [frame_take_body]
    exact (congrArg BitVec.toNat (frame_getD_footer t p 0)).trans (hiByte_toNat _)
  · rw [frame_take_body, show 5 + p.length = 4 + p.length + 1 by omega, frame_getD_footer]
    exact loByte_toNat _

/-- Settles O37: the decoder answers a reserved instruction whatever the other bits and the payload are, and its meaning is the
refusal in every state. -/
theorem reservedOperationsAreRefused : Obligations.ReservedOperationsAreRefused :=
  ⟨fun _ _ _ => rfl, fun _ _ _ => rfl, fun _ pin h => decodeRequest_of_op_six h pin,
    fun _ pin h => decodeRequest_of_op_seven h pin⟩

end Sys2Proof
end

section
/-! PROOFS. The checksum unit (spec/40_checksum.md): its step against the rule's recurrence on unbounded numbers (R101), and the
three CKS operations (R102 to R104). -/

namespace Sys2Proof.Machine

/-! ### The decoder answers only with the encoding's own instruction -/

/-- A request that decodes to an instruction is that instruction's encoding: the fields the decoder does not carry over are
those it has checked (R61 to R63). -/
theorem encode_of_decodeRequest {w : BitVec 32} {pin : Bytes} {i : Instr} (h : decodeRequest w pin = .instr i)
    (P : Params) : encode P i = .request ⟨w, pin⟩ := by
  have hw := requestWord_fields w
  rcases op_cases (opField w) with hop | hop | hop | hop | hop | hop | hop | hop <;> rw [hop] at hw
  case inr.inr.inr.inr.inr.inr.inl =>
    rw [decodeRequest_of_op_six hop] at h
    cases h
    rw [encode, ← hop, reservedWord_fields]
  case inr.inr.inr.inr.inr.inr.inr =>
    rw [decodeRequest_of_op_seven hop] at h
    cases h
    rw [encode, ← hop, reservedWord_fields]
  all_goals
    simp only [decodeRequest, hop, BitVec.ofNat_eq_ofNat, BitVec.toNat_ofNat, Nat.reducePow, Nat.zero_mod, Nat.one_mod,
      Nat.reduceMod] at h
    split_ifs at h with hzero
    cases h
    simpa [encode, hzero] using hw

/-! ### The step on 8-bit values and the step on unbounded numbers -/

/-- The mask `0xFF` does nothing to the number of a byte. -/
theorem toNat_and_mask (b : Byte) : b.toNat &&& 0xFF = b.toNat := by
  rw [Nat.and_two_pow_sub_one_eq_mod b.toNat 8, Nat.mod_eq_of_lt b.isLt]

/-- A left shift of a byte drops what the mask `0xFF` takes off the shift that does not truncate (R8). -/
theorem toNat_xor_shiftLeft (a b : Byte) (k : Nat) :
    (a ^^^ b <<< k).toNat = (a.toNat ^^^ b.toNat <<< k) &&& 0xFF := by
  rw [Nat.and_xor_distrib_right, toNat_and_mask, Nat.and_two_pow_sub_one_eq_mod _ 8, BitVec.toNat_xor,
    BitVec.toNat_shiftLeft]

/-- The accumulators' value as a number (R104). -/
theorem cksValue_toNat (msb lsb : Byte) : (cksValue (msb, lsb)).toNat = msb.toNat <<< 8 ||| lsb.toNat :=
  BitVec.toNat_append msb lsb

/-! ### The CKS operations with nothing in progress -/

/-- Completing after an update of CKS, with nothing in progress. -/
theorem State.complete_cks_of_idle {s : State} (h : s.busy = false) (k : Cks) (r : Result) :
    ({ s with cks := k } : State).complete r = { s with cks := k, results := s.results ++ [r] } :=
  State.complete_of_idle (s := { s with cks := k }) h r

theorem execCksInit_of_idle {s : State} (h : s.busy = false) :
    execCksInit s = .next { s with cks := ⟨0xFF, 0xFF⟩, results := s.results ++ [.ok] } := by
  rw [execCksInit, State.whenIdle_of_idle h, State.complete_cks_of_idle h, Config.cksInitMsb, Config.cksInitLsb]

theorem execCksFeed_of_idle {s : State} (h : s.busy = false) (c : Byte) :
    execCksFeed c s = .next { s with
      cks := ⟨(cksStep (s.cks.msb, s.cks.lsb) c).1, (cksStep (s.cks.msb, s.cks.lsb) c).2⟩
      results := s.results ++ [.ok] } := by
  rw [execCksFeed, State.whenIdle_of_idle h, State.complete_cks_of_idle h]

theorem execCksRead_of_idle {s : State} (h : s.busy = false) :
    execCksRead s = .next { s with results := s.results ++ [.value (cksValue (s.cks.msb, s.cks.lsb))] } := by
  rw [execCksRead, State.whenIdle_of_idle h, State.complete_of_idle h]

/-! ### The request words of the CKS operations -/

theorem decodeRequest_eq_cksInit_iff {w : BitVec 32} {pin : Bytes} :
    decodeRequest w pin = .instr .cksInit ↔ w = 0x00000000 ∧ pin = [] := by
  constructor
  · intro h
    cases encode_of_decodeRequest h Params.reference
    exact ⟨rfl, rfl⟩
  · rintro ⟨rfl, rfl⟩
    rfl

theorem decodeRequest_eq_cksFeed_iff {w : BitVec 32} {pin : Bytes} {c : Byte} :
    decodeRequest w pin = .instr (.cksFeed c) ↔
      opField w = 1 ∧ typeField w = 0 ∧ tmoField w = false ∧ rsvField w = 0 ∧ pin = [] ∧ byteField w = c := by
  constructor
  · intro h
    cases encode_of_decodeRequest h Params.reference
    simp
  · rintro ⟨hop, ht, htmo, hrsv, rfl, rfl⟩
    simp [decodeRequest, hop, ht, htmo, hrsv]

theorem decodeRequest_eq_cksRead_iff {w : BitVec 32} {pin : Bytes} :
    decodeRequest w pin = .instr .cksRead ↔ w = 0x00000002 ∧ pin = [] := by
  constructor
  · intro h
    cases encode_of_decodeRequest h Params.reference
    exact ⟨rfl, rfl⟩
  · rintro ⟨rfl, rfl⟩
    rfl

end Sys2Proof.Machine

/-! ### The obligations -/

namespace Sys2Proof

open Sys2Proof.Machine

/-- Settles O4: read from the inside out, each masked line of the recurrence is the number of the byte that the step computes;
only the two left shifts leave anything to mask. -/
theorem checksumStepIsTheMaskedRecurrence : Obligations.ChecksumStepIsTheMaskedRecurrence := by
  intro msb lsb c
  simp only [cksStep, cksStepNat, ← BitVec.toNat_xor, ← BitVec.toNat_ushiftRight, toNat_and_mask, ← toNat_xor_shiftLeft]

/-- Settles O1: admission, the effect, and the one word that encodes the operation. -/
theorem cksInitSetsBothAccumulators : Obligations.CksInitSetsBothAccumulators :=
  ⟨fun _ h => execCksInit_of_idle h, fun _ h => State.whenIdle_of_busy h _, fun _ _ => decodeRequest_eq_cksInit_iff⟩

/-- Settles O2: admission, one step from the old accumulators, and the words that encode the operation. -/
theorem cksFeedAppliesOneStep : Obligations.CksFeedAppliesOneStep :=
  ⟨fun c _ h => execCksFeed_of_idle h c, fun _ _ h => State.whenIdle_of_busy h _,
    fun _ _ _ => decodeRequest_eq_cksFeed_iff⟩

/-- Settles O3: the record's value is the two accumulators put together, and the record is all that is new. -/
theorem cksReadPresentsTheValue : Obligations.CksReadPresentsTheValue :=
  ⟨fun s h => ⟨cksValue (s.cks.msb, s.cks.lsb), cksValue_toNat .., execCksRead_of_idle h⟩, fun _ h => State.whenIdle_of_busy h _,
    fun _ _ => decodeRequest_eq_cksRead_iff⟩

end Sys2Proof
end

section
/-! PROOFS. The framer (spec/41_framer.md): ENCODE (R120, R121), and each read step of a decode case by case (R123 to R127);
`step_of_decoding` carries a read step to the block's turn. -/

namespace Sys2Proof.Machine

/-! ### ENCODE -/

theorem whenPayloadFits_of_gt {p : Bytes} (h : 65535 < p.length) (k : Answer State) :
    whenPayloadFits p k = .refused .encPayloadTooLong :=
  if_neg (Nat.not_le.2 h)

theorem execEncode_of_idle {s : State} {p : Bytes} (hp : p.length ≤ 65535) (h : s.busy = false) (t : I16) :
    execEncode t p s = .next { s with results := s.results ++ [.frame (frame t p)] } := by
  rw [execEncode, whenPayloadFits_of_le hp, State.whenIdle_of_idle h, State.complete_of_idle h]

/-- A busy block refuses ENCODE; the payload's length is checked before (R188). -/
theorem execEncode_of_busy {s : State} {p : Bytes} (hp : p.length ≤ 65535) (h : s.busy = true) (t : I16) :
    execEncode t p s = .refused .blkBusy := by
  rw [execEncode, whenPayloadFits_of_le hp, State.whenIdle_of_busy h]

/-- A request that decodes to ENCODE carries a payload that fits (R66): `encode_of_decodeRequest` does not say so. -/
theorem length_le_of_decodeRequest_encode {w : BitVec 32} {pin p : Bytes} {t : I16}
    (h : decodeRequest w pin = .instr (.encode t p)) : p.length ≤ 65535 := by
  have hop : opField w = 3 := by
    cases encode_of_decodeRequest h Params.reference
    simp
  simp only [decodeRequest, hop, BitVec.ofNat_eq_ofNat, BitVec.toNat_ofNat, Nat.reducePow, Nat.reduceMod] at h
  split_ifs at h with _ hlen
  cases h
  exact hlen

theorem decodeRequest_eq_encode_iff {w : BitVec 32} {pin p : Bytes} {t : I16} :
    decodeRequest w pin = .instr (.encode t p) ↔
      opField w = 3 ∧ byteField w = 0 ∧ tmoField w = false ∧ rsvField w = 0 ∧ pin.length ≤ 65535 ∧
        typeField w = t ∧ pin = p := by
  constructor
  · intro h
    have hlen := length_le_of_decodeRequest_encode h
    cases encode_of_decodeRequest h Params.reference
    simpa using hlen
  · rintro ⟨hop, hbyte, htmo, hrsv, hlen, rfl, rfl⟩
    simp [decodeRequest, hop, hbyte, htmo, hrsv, Config.maxPayload, hlen]

/-! ### The read steps, case by case -/

/-- A header that announces a payload (R123, R124). -/
theorem readStep_header_of_len_ne_zero {s : State} {b0 b1 b2 b3 : Byte} (hp : s.frm.phase = .hdr)
    (hr : s.link.readBytes 4 = [b0, b1, b2, b3]) (hl : be16 b2 b3 ≠ 0) :
    readStep s = some (none, { s with
      link := s.link.read 4 (timeout s.tsel)
      frm := { s.frm with hdr := [b0, b1, b2, b3], type := be16 b0 b1, len := be16 b2 b3, phase := .pay } }) := by
  simp only [readStep, hp, headerStep, hr, if_neg hl]

/-- A header of length 0: no payload is read (R124). -/
theorem readStep_header_of_len_zero {s : State} {b0 b1 b2 b3 : Byte} (hp : s.frm.phase = .hdr)
    (hr : s.link.readBytes 4 = [b0, b1, b2, b3]) (hl : be16 b2 b3 = 0) :
    readStep s = some (none, { s with
      link := s.link.read 4 (timeout s.tsel)
      frm := { s.frm with
        hdr := [b0, b1, b2, b3], type := be16 b0 b1, len := be16 b2 b3, buf := [], phase := .ftr } }) := by
  simp only [readStep, hp, headerStep, hr, if_pos hl]

/-- A short header (R123). -/
theorem readStep_header_of_short {s : State} (hp : s.frm.phase = .hdr) (hr : (s.link.readBytes 4).length < 4) :
    readStep s = some (some .shortHeader, { s with
      link := s.link.read 4 (timeout s.tsel)
      frm := { s.frm with phase := .idle } }) := by
  simp only [readStep, hp, headerStep]
  split
  · next hb => simp [hb] at hr
  · rfl

/-- A whole payload (R125). -/
theorem readStep_payload_of_full {s : State} (hp : s.frm.phase = .pay)
    (hr : (s.link.readBytes s.frm.len.toNat).length = s.frm.len.toNat) :
    readStep s = some (none, { s with
      link := s.link.read s.frm.len.toNat (timeout s.tsel)
      frm := { s.frm with buf := s.link.readBytes s.frm.len.toNat, phase := .ftr } }) := by
  simp only [readStep, hp, payloadStep, if_neg hr.not_lt]

/-- A short payload (R125). -/
theorem readStep_payload_of_short {s : State} (hp : s.frm.phase = .pay)
    (hr : (s.link.readBytes s.frm.len.toNat).length < s.frm.len.toNat) :
    readStep s = some (some .shortPayload, { s with
      link := s.link.read s.frm.len.toNat (timeout s.tsel)
      frm := { s.frm with phase := .idle } }) := by
  simp only [readStep, hp, payloadStep, if_pos hr]

/-- A footer that is the checksum of header and payload (R126, R127). -/
theorem readStep_footer_of_match {s : State} {f0 f1 : Byte} (hp : s.frm.phase = .ftr)
    (hr : s.link.readBytes 2 = [f0, f1]) (hc : be16 f0 f1 = checksum (s.frm.hdr ++ s.frm.buf)) :
    readStep s = some (some (.packet s.frm.type s.frm.buf), { s with
      link := s.link.read 2 (timeout s.tsel)
      frm := { s.frm with ftr := be16 f0 f1, phase := .idle } }) := by
  simp only [readStep, hp, footerStep, hr, if_pos hc]

/-- A footer that is not (R127). -/
theorem readStep_footer_of_mismatch {s : State} {f0 f1 : Byte} (hp : s.frm.phase = .ftr)
    (hr : s.link.readBytes 2 = [f0, f1]) (hc : be16 f0 f1 ≠ checksum (s.frm.hdr ++ s.frm.buf)) :
    readStep s = some (some .checksumMismatch, { s with
      link := s.link.read 2 (timeout s.tsel)
      frm := { s.frm with ftr := be16 f0 f1, phase := .idle } }) := by
  simp only [readStep, hp, footerStep, hr, if_neg hc]

/-- A short footer (R126). -/
theorem readStep_footer_of_short {s : State} (hp : s.frm.phase = .ftr) (hr : (s.link.readBytes 2).length < 2) :
    readStep s = some (some .shortFooter, { s with
      link := s.link.read 2 (timeout s.tsel)
      frm := { s.frm with phase := .idle } }) := by
  simp only [readStep, hp, footerStep]
  split
  · next hb => simp [hb] at hr
  · rfl

end Sys2Proof.Machine

/-! ### The obligations -/

namespace Sys2Proof

open Sys2Proof.Machine

/-- Settles O10: the payload's length is checked before the block's being busy, the record is all that is new, and the words that
encode the operation. -/
theorem encodePresentsTheFrame : Obligations.EncodePresentsTheFrame :=
  ⟨fun t _ _ hp h => execEncode_of_idle hp h t, fun t _ _ hp h => execEncode_of_busy hp h t,
    fun _ _ _ hp => whenPayloadFits_of_gt hp _, fun _ _ _ _ => decodeRequest_eq_encode_iff⟩

/-- Settles O12: the block's turn is the read step of the phase, in each of its cases. After a short read the step leaves the
working registers as they were. -/
theorem headerAndPayloadStepsReadAndParse : Obligations.HeaderAndPayloadStepsReadAndParse := by
  intro s hb hd
  refine ⟨fun hp _ _ _ _ hr hl => ?_, fun hp _ _ _ _ hr hl => ?_, fun hp hr => ?_, fun hp hr => ?_, fun hp hr => ?_⟩
  · exact step_of_decoding hb hd (readStep_header_of_len_ne_zero hp hr hl)
  · exact step_of_decoding hb hd (readStep_header_of_len_zero hp hr hl)
  · exact ⟨{ s.frm with phase := .idle }, rfl, step_of_decoding hb hd (readStep_header_of_short hp hr)⟩
  · exact step_of_decoding hb hd (readStep_payload_of_full hp hr)
  · exact ⟨{ s.frm with phase := .idle }, rfl, step_of_decoding hb hd (readStep_payload_of_short hp hr)⟩

/-- Settles O13: the block's turn is the footer step, in each of its cases. -/
theorem footerStepChecksTheChecksum : Obligations.FooterStepChecksTheChecksum := by
  intro s hb hd hp
  refine ⟨fun f0 f1 hr hc => ?_, fun f0 f1 hr hc => ?_, fun hr => ?_⟩
  · exact ⟨{ s.frm with ftr := be16 f0 f1, phase := .idle }, rfl, rfl,
      step_of_decoding hb hd (readStep_footer_of_match hp hr hc)⟩
  · exact ⟨{ s.frm with ftr := be16 f0 f1, phase := .idle }, rfl, rfl,
      step_of_decoding hb hd (readStep_footer_of_mismatch hp hr hc)⟩
  · exact ⟨{ s.frm with phase := .idle }, rfl, step_of_decoding hb hd (readStep_footer_of_short hp hr)⟩

end Sys2Proof
end

section
/-! PROOFS. The correlator (spec/42_correlator.md): EXECUTE's admission and start step (R150, R151), its send step (R152), what
each outcome of an attempt does (R154 to R156), and that the link operations leave CKS alone (R160). -/

namespace Sys2Proof.Machine

/-! ### EXECUTE's admission and its request words -/

theorem State.whenAlive_of_alive {s : State} (h : s.cor.dead = false) (k : Answer State) : s.whenAlive k = k := by
  simp [State.whenAlive, h]

theorem execExecute_of_alive {s : State} {t : I16} {p : Bytes} (hp : p.length ≤ 65535) (hi : s.busy = false)
    (ht : 0 < t.toInt) (hd : s.cor.dead = false) (tmo : Bool) :
    execExecute tmo t p s = .next { s with
      cor := { s.cor with type := t, pay := p, tmo := tmo, att := 0, phase := .send }
      op := .execute } := by
  rw [execExecute, whenPayloadFits_of_le hp, State.whenIdle_of_idle hi, if_neg (by omega), State.whenAlive_of_alive hd]

/-- A busy block refuses EXECUTE; the payload's length is checked before, the type is not (R188). -/
theorem execExecute_of_busy {s : State} {p : Bytes} (hp : p.length ≤ 65535) (h : s.busy = true) (tmo : Bool) (t : I16) :
    execExecute tmo t p s = .refused .blkBusy := by
  rw [execExecute, whenPayloadFits_of_le hp, State.whenIdle_of_busy h]

/-- An idle block refuses a type that is not positive, dead or not (R188). -/
theorem execExecute_of_type_nonpos {s : State} {t : I16} {p : Bytes} (hp : p.length ≤ 65535) (hi : s.busy = false)
    (ht : t.toInt ≤ 0) (tmo : Bool) : execExecute tmo t p s = .refused .corTypeNotPositive := by
  rw [execExecute, whenPayloadFits_of_le hp, State.whenIdle_of_idle hi, if_pos ht]

/-- A request decodes to an instruction that its encoding can carry: the decoder has checked the payload's length (R66). -/
theorem decodeRequest_wf {w : BitVec 32} {pin : Bytes} {i : Instr} (h : decodeRequest w pin = .instr i) :
    i.wf = true := by
  unfold decodeRequest at h
  repeat' split at h
  all_goals cases h
  all_goals simp [Instr.wf, *]

theorem decodeRequest_eq_execute_iff {w : BitVec 32} {pin p : Bytes} {tmo : Bool} {t : I16} :
    decodeRequest w pin = .instr (.execute tmo t p) ↔
      opField w = 5 ∧ byteField w = 0 ∧ rsvField w = 0 ∧ pin.length ≤ 65535 ∧ tmoField w = tmo ∧
        typeField w = t ∧ pin = p := by
  constructor
  · intro h
    have hlen : p.length ≤ 65535 := of_decide_eq_true (decodeRequest_wf h)
    cases encode_of_decodeRequest h Params.reference
    simpa using hlen
  · rintro ⟨hop, hbyte, hrsv, hlen, rfl, rfl, rfl⟩
    simp [decodeRequest, hop, hbyte, hrsv, Config.maxPayload, hlen]

/-! ### What the outcome of an attempt does -/

theorem respond_of_match {s : State} {rt : I16} (h : rt = s.cor.type) (rp : Bytes) :
    respond rt rp s = s.finish (.response rp) := if_pos h

theorem respond_of_failed {s : State} {rt : I16} (ht : rt ≠ s.cor.type) (hf : rt = s.params.failedType) (rp : Bytes) :
    respond rt rp s = failedResponse rp s := by
  rw [respond, if_neg ht, if_pos hf]

theorem respond_of_unrelated {s : State} {rt : I16} (ht : rt ≠ s.cor.type) (hf : rt ≠ s.params.failedType) (rp : Bytes) :
    respond rt rp s = transient s := by
  rw [respond, if_neg ht, if_neg hf]

/-- In an EXECUTE a packet is classified by its type (R161). -/
theorem endDecode_packet_of_execute {s : State} (h : s.op = .execute) (rt : I16) (rp : Bytes) :
    endDecode (.packet rt rp) s = respond rt rp s := by
  simp only [endDecode, h]

/-- In an EXECUTE every decode failure, and every packet of neither type, is a transient outcome (R156). -/
theorem endDecode_transient {s : State} {o : DecodeOutcome} (h : s.op = .execute)
    (hu : ∀ rt rp, o = .packet rt rp → rt ≠ s.cor.type ∧ rt ≠ s.params.failedType) : endDecode o s = transient s := by
  cases o with
  | packet rt rp =>
    obtain ⟨ht, hf⟩ := hu rt rp rfl
    rw [endDecode_packet_of_execute h, respond_of_unrelated ht hf]
  | shortHeader | shortPayload | shortFooter | checksumMismatch => simp only [endDecode, h]

/-- A failure marker that is negative is not the type of an admitted request (R4, R150). -/
theorem failedType_ne_of_signs {t f : I16} (ht : 0 < t.toInt) (hf : f.toInt < 0) : f ≠ t := by
  rintro rfl
  omega

/-- A byte below a value, as a number (R9). -/
theorem toNat_append_byte {n : Nat} (v : BitVec n) (b : Byte) : (v ++ b).toNat = v.toNat * 256 + b.toNat := by
  rw [BitVec.toNat_append, ← Nat.shiftLeft_add_eq_or_of_lt b.isLt, Nat.shiftLeft_eq]

/-- The big-endian composition of four bytes, as a number (R9, R72). -/
theorem be32_toNat (b0 b1 b2 b3 : Byte) :
    (be32 b0 b1 b2 b3).toNat = ((b0.toNat * 256 + b1.toNat) * 256 + b2.toNat) * 256 + b3.toNat := by
  rw [be32, toNat_append_byte, toNat_append_byte, toNat_append_byte]

/-! ### EXECUTE's steps -/

/-- The block's turn in phase SEND is the send step (R152). -/
theorem step_of_sending {s : State} (hb : s.blockMoves = true) (ho : s.op = .execute) (hp : s.cor.phase = .send) :
    step s = .next (sendStep { s with agenda := s.agenda.tail }) := by
  simp only [step_of_blockMoves hb, blockTurn, ho, hp]

/-- A read step changes the link and FRM alone. -/
theorem readStep_frame {s s' : State} {o : Option DecodeOutcome} (h : readStep s = some (o, s')) :
    ∃ l f, s' = { s with link := l, frm := f } := by
  obtain ⟨n, f, hs', -⟩ := readStep_spec h
  exact ⟨_, f, hs'⟩

/-- The block's turn in phase RECV, where it ends the decode: EXECUTE goes on with the outcome (R153). -/
theorem step_of_receiving {s s' : State} {o : DecodeOutcome} (hb : s.blockMoves = true) (ho : s.op = .execute)
    (hp : s.cor.phase = .recv) (h : readStep s = some (some o, s')) :
    step s = .next (endDecode o { s' with agenda := s.agenda.tail }) :=
  step_of_decoding hb (by simp [State.decoding, ho, hp]) h

theorem step_of_packet {s s' : State} {rt : I16} {rp : Bytes} (hb : s.blockMoves = true) (ho : s.op = .execute)
    (hp : s.cor.phase = .recv) (h : readStep s = some (some (.packet rt rp), s')) :
    step s = .next (respond rt rp { s' with agenda := s.agenda.tail }) := by
  rw [step_of_receiving hb ho hp h, endDecode_packet_of_execute]
  obtain ⟨l, f, rfl⟩ := readStep_frame h
  exact ho

theorem step_of_transient {s s' : State} {o : DecodeOutcome} (hb : s.blockMoves = true) (ho : s.op = .execute)
    (hp : s.cor.phase = .recv) (h : readStep s = some (some o, s'))
    (hu : ∀ rt rp, o = .packet rt rp → rt ≠ s.cor.type ∧ rt ≠ s.params.failedType) :
    step s = .next (transient { s' with agenda := s.agenda.tail }) := by
  obtain ⟨l, f, rfl⟩ := readStep_frame h
  rw [step_of_receiving hb ho hp h, endDecode_transient]
  · exact ho
  · exact hu

/-! ### CKS does not matter to admission, nor to what a decode's end does -/

/-- A change to the next state passes under admission. -/
theorem mapNext_whenIdle (f : State → State) (s : State) (k : Answer State) :
    mapNext f (s.whenIdle k) = s.whenIdle (mapNext f k) :=
  apply_ite (mapNext f) (s.busy = true) (.refused .blkBusy) k

theorem mapNext_whenAlive (f : State → State) (s : State) (k : Answer State) :
    mapNext f (s.whenAlive k) = s.whenAlive (mapNext f k) :=
  apply_ite (mapNext f) (s.cor.dead = true) (.refused .corDead) k

theorem mapNext_whenPayloadFits (f : State → State) (p : Bytes) (k : Answer State) :
    mapNext f (whenPayloadFits p k) = whenPayloadFits p (mapNext f k) :=
  apply_ite (mapNext f) (p.length ≤ Config.maxPayload) k (.refused .encPayloadTooLong)

theorem execEncode_cks (t : I16) (p : Bytes) (s : State) (c : Cks) :
    execEncode t p { s with cks := c } = mapNext (fun u => { u with cks := c }) (execEncode t p s) := by
  rw [execEncode, execEncode, mapNext_whenPayloadFits, mapNext_whenIdle]
  rfl

theorem execDecode_cks (tmo : Bool) (s : State) (c : Cks) :
    execDecode tmo { s with cks := c } = mapNext (fun u => { u with cks := c }) (execDecode tmo s) := by
  rw [execDecode, execDecode, mapNext_whenIdle, mapNext_whenAlive]
  rfl

theorem execExecute_cks (tmo : Bool) (t : I16) (p : Bytes) (s : State) (c : Cks) :
    execExecute tmo t p { s with cks := c } = mapNext (fun u => { u with cks := c }) (execExecute tmo t p s) := by
  rw [execExecute, execExecute, mapNext_whenPayloadFits, mapNext_whenIdle, apply_ite (mapNext _), mapNext_whenAlive]
  rfl

theorem transient_cks (s : State) (c : Cks) : transient { s with cks := c } = { transient s with cks := c } := by
  simp only [transient]
  split <;> rfl

theorem failedResponse_cks (p : Bytes) (s : State) (c : Cks) :
    failedResponse p { s with cks := c } = { failedResponse p s with cks := c } := by
  unfold failedResponse
  split <;> rfl

theorem respond_cks (rt : I16) (rp : Bytes) (s : State) (c : Cks) :
    respond rt rp { s with cks := c } = { respond rt rp s with cks := c } := by
  simp only [respond, transient_cks, failedResponse_cks]
  split
  · rfl
  · split <;> rfl

theorem endDecode_cks (o : DecodeOutcome) (s : State) (c : Cks) :
    endDecode o { s with cks := c } = { endDecode o s with cks := c } := by
  obtain ⟨P, k, f, r, op, l, a, rs, fs, fc⟩ := s
  cases op with
  | none | decode => rfl
  | execute =>
    cases o with
    | packet rt rp => exact respond_cks rt rp ⟨P, k, f, r, .execute, l, a, rs, fs, fc⟩ c
    | shortHeader | shortPayload | shortFooter | checksumMismatch =>
      exact transient_cks ⟨P, k, f, r, .execute, l, a, rs, fs, fc⟩ c

/-! ### CKS does not matter to the block's turn -/

theorem readStep_cks (s : State) (c : Cks) :
    readStep { s with cks := c } = (readStep s).map (fun r => (r.1, { r.2 with cks := c })) := by
  simp only [readStep, headerStep, payloadStep, footerStep]
  repeat' split
  all_goals simp_all [State.tsel]

theorem readTurn_cks (s : State) (c : Cks) :
    readTurn { s with cks := c } = mapNext (fun u => { u with cks := c }) (readTurn s) := by
  rw [readTurn_eq, readTurn_eq, readStep_cks]
  rcases readStep s with _ | ⟨_ | o, s'⟩
  · rfl
  · rfl
  · exact congrArg _ (endDecode_cks o s' c)

theorem blockTurn_cks (s : State) (c : Cks) :
    blockTurn { s with cks := c } = mapNext (fun u => { u with cks := c }) (blockTurn s) := by
  by_cases hd : s.decoding = true
  · rw [blockTurn_of_decoding hd, blockTurn_of_decoding (s := { s with cks := c }) hd, readTurn_cks]
  · cases ho : s.op with
    | none => simp [blockTurn, ho, mapNext]
    | decode tmo => simp [State.decoding, ho] at hd
    | execute =>
      cases hp : s.cor.phase with
      | idle => simp [blockTurn, ho, hp, mapNext]
      | send => simp [blockTurn, ho, hp, mapNext, sendStep]
      | recv => simp [State.decoding, ho, hp] at hd

/-! ### CKS does not matter to the requests of ENCODE, DECODE and EXECUTE -/

/-- The instructions of the operation codes 3, 4 and 5 (R61). -/
theorem decodeRequest_of_link_op {w : BitVec 32} {pin : Bytes} {i : Instr}
    (hop : opField w = 3 ∨ opField w = 4 ∨ opField w = 5) (h : decodeRequest w pin = .instr i) :
    (∃ t p, i = .encode t p) ∨ (∃ tmo, i = .decode tmo) ∨ ∃ tmo t p, i = .execute tmo t p := by
  have he := encode_of_decodeRequest h Params.reference
  cases i
  case encode t p => exact .inl ⟨t, p, rfl⟩
  case decode tmo => exact .inr (.inl ⟨tmo, rfl⟩)
  case execute tmo t p => exact .inr (.inr ⟨tmo, t, p, rfl⟩)
  case cksInit | cksFeed | cksRead | reserved6 | reserved7 =>
    cases he
    simp at hop
  all_goals cases he

theorem settleRequest_cks (s : State) (a : Answer State) (c : Cks) :
    settleRequest { s with cks := c } (mapNext (fun u => { u with cks := c }) a) =
      mapNext (fun u => { u with cks := c }) (settleRequest s a) := by
  cases a <;> rfl

theorem hostTurn_cks {w : BitVec 32} (hop : opField w = 3 ∨ opField w = 4 ∨ opField w = 5) (pin : Bytes) (s : State)
    (c : Cks) : hostTurn w pin { s with cks := c } = mapNext (fun u => { u with cks := c }) (hostTurn w pin s) := by
  unfold hostTurn
  split
  · next i hi =>
    have hexec : exec i { s with cks := c } = mapNext (fun u => { u with cks := c }) (exec i s) := by
      obtain ⟨t, p, rfl⟩ | ⟨tmo, rfl⟩ | ⟨tmo, t, p, rfl⟩ := decodeRequest_of_link_op hop hi
      · exact execEncode_cks t p s c
      · exact execDecode_cks tmo s c
      · exact execExecute_cks tmo t p s c
    rw [hexec, settleRequest_cks]
  · rfl

end Sys2Proof.Machine

/-! ### The obligations -/

namespace Sys2Proof

open Sys2Proof.Machine

/-- Settles O35: the block's turn and the turn of such a request commute with any change of the CKS registers. -/
theorem cksRegistersSurviveEveryLinkOperation : Obligations.CksRegistersSurviveEveryLinkOperation := by
  rintro s c (hb | ⟨w, pin, rest, ha, hop⟩)
  · rw [step_of_blockMoves hb, step_of_blockMoves (s := { s with cks := c }) hb]
    exact blockTurn_cks { s with agenda := s.agenda.tail } c
  · simp only [step, takeTurn, ha]
    exact hostTurn_cks hop pin { s with agenda := rest } c

/-- Settles O18: the payload's length, the block's being busy, the type and `COR.DEAD` are checked in this order, and the words
that encode the operation. -/
theorem executeStartLoadsTheRequest : Obligations.ExecuteStartLoadsTheRequest :=
  ⟨fun tmo _ _ _ hp hi ht hd => execExecute_of_alive hp hi ht hd tmo, fun _ _ _ _ hp => whenPayloadFits_of_gt hp _,
    fun tmo t _ _ hp hb => execExecute_of_busy hp hb tmo t, fun tmo _ _ _ hp hi ht => execExecute_of_type_nonpos hp hi ht tmo,
    fun tmo _ _ _ hp hi ht hd => execExecute_of_dead hi hd tmo ht hp, fun _ _ _ _ _ => decodeRequest_eq_execute_iff⟩

/-- Settles O19: the block's turn is the send step. -/
theorem sendStepWritesTheRequestFrame : Obligations.SendStepWritesTheRequestFrame :=
  fun _ hb ho hp => step_of_sending hb ho hp

/-- Settles O20: the packet is classified as a match, and EXECUTE finishes. -/
theorem matchingResponseCompletesExecute : Obligations.MatchingResponseCompletesExecute := by
  intro s s' rp hb ho hp hr
  rw [step_of_packet hb ho hp hr]
  obtain ⟨l, f, rfl⟩ := readStep_frame hr
  rw [respond_of_match]
  · rfl
  · rfl

/-- Settles O21: the signs of the two types tell the marker from a match, and the payload's length decides the record. -/
theorem failedResponseCompletesExecuteAtOnce : Obligations.FailedResponseCompletesExecuteAtOnce := by
  intro s s' rp hb ho hp ht hf hr
  rw [step_of_packet hb ho hp hr]
  obtain ⟨l, f, rfl⟩ := readStep_frame hr
  rw [respond_of_failed]
  · refine ⟨fun b0 b1 b2 b3 hrp => ⟨be32 b0 b1 b2 b3, be32_toNat b0 b1 b2 b3, ?_⟩, fun hlen => ?_⟩
    · rw [hrp, failedResponse_of_four]
      rfl
    · rw [failedResponse_of_other hlen]
  · exact failedType_ne_of_signs ht hf
  · rfl

/-- Settles O22: every such outcome is the transient one, and the attempts made so far decide between a retry and exhaustion. -/
theorem transientOutcomeRetriesOrExhausts : Obligations.TransientOutcomeRetriesOrExhausts := by
  intro s s' o hb ho hp hr hu
  rw [step_of_transient hb ho hp hr hu]
  obtain ⟨l, f, rfl⟩ := readStep_frame hr
  constructor
  · intro h
    rw [transient_retries]
    exact h
  · intro h
    rw [transient_exhausts]
    exact h

end Sys2Proof
end

section
/-! PROOFS. Reset (spec/70_reset_and_hazards.md R200, R201): the values of the units' registers, the turn that is a reset, and the
turn of a block that waits for a request. -/

namespace Sys2Proof.Machine

/-! ### The reset values (R22, R24, R26, R27, R29, R30) -/

theorem Cks.reset_eq : Cks.reset = ⟨0xFF, 0xFF⟩ := rfl
@[simp] theorem Frm.reset_phase : Frm.reset.phase = .idle := rfl
@[simp] theorem Cor.reset_phase : Cor.reset.phase = .idle := rfl
@[simp] theorem Cor.reset_att : Cor.reset.att = 0 := rfl
@[simp] theorem Cor.reset_dead : Cor.reset.dead = false := rfl
@[simp] theorem Cor.reset_fault : Cor.reset.fault = false := rfl

@[simp] theorem State.boot_cks (P : Params) (L : Link) : (State.boot P L).cks = Cks.reset := rfl
@[simp] theorem State.boot_frm (P : Params) (L : Link) : (State.boot P L).frm = Frm.reset := rfl
@[simp] theorem State.boot_cor (P : Params) (L : Link) : (State.boot P L).cor = Cor.reset := rfl
@[simp] theorem State.boot_op (P : Params) (L : Link) : (State.boot P L).op = .none := rfl
@[simp] theorem State.boot_link (P : Params) (L : Link) : (State.boot P L).link = L := rfl
@[simp] theorem State.boot_blockMoves (P : Params) (L : Link) : (State.boot P L).blockMoves = true := rfl

/-! ### The two turns -/

/-- R200: the block's turn changes nothing while no operation is in progress. -/
theorem step_of_waiting {s : State} (hb : s.blockMoves = true) (ho : s.op = .none) :
    step s = .next { s with agenda := s.agenda.tail } := by
  rw [step_of_blockMoves hb, blockTurn, ho]

/-- R201: the turn that is a reset, whatever operation is in progress. -/
theorem step_of_resetPulse {s : State} {rest : List Event} (h : s.agenda = .resetPulse :: rest) :
    step s = .next ({ s with agenda := rest } : State).resetBlock := by
  rw [step, takeTurn, h]

end Sys2Proof.Machine

/-! ### The obligations -/

namespace Sys2Proof

open Sys2Proof.Machine

/-- Settles O39: the registers hold the units' reset values, and with an empty agenda and no operation the block waits. -/
theorem resetStateHoldsTheResetValues : Obligations.ResetStateHoldsTheResetValues := by
  intro P L
  have waits : step (State.boot P L) = .next (State.boot P L) :=
    step_of_waiting (State.boot_blockMoves P L) (State.boot_op P L)
  simp [waits, Cks.reset_eq]

/-- Settles O40: the turn is `State.resetBlock`, which sets the block's registers and leaves the rest. -/
theorem resetPulseAbandonsTheOperation : Obligations.ResetPulseAbandonsTheOperation := by
  intro s rest h
  refine ⟨_, step_of_resetPulse h, ?_⟩
  simp [Cks.reset_eq]

end Sys2Proof
end

section
/-! PROOFS. Encodings (spec/30_encoding.md R60 to R67, R71, R75, R76): decoding after encoding (`decodeRequest_of_encode`,
`decodeWireType_of_wireTypeOf`) and encoding after decoding, and the assembled lines, which are encodings. -/

namespace Sys2Proof.Machine

/-! ### Host requests -/

/-- The request that a well-formed instruction is encoded as decodes to it. -/
theorem decodeRequest_of_encode {P : Params} {i : Instr} {r : Request} (hw : i.wf = true)
    (he : encode P i = .request r) : decodeRequest r.word r.pin = .instr i := by
  cases i
  case cksInit | cksRead => cases he; rfl
  case cksFeed c => cases he; exact decodeRequest_eq_cksFeed_iff.2 (by simp)
  case encode t p =>
    have hp : p.length ≤ 65535 := of_decide_eq_true hw
    cases he
    exact decodeRequest_eq_encode_iff.2 (by simpa using hp)
  case decode tmo => cases he; cases tmo <;> rfl
  case execute tmo t p =>
    have hp : p.length ≤ 65535 := of_decide_eq_true hw
    cases he
    exact decodeRequest_eq_execute_iff.2 (by simpa using hp)
  case reserved6 u p => cases he; simpa using decodeRequest_of_op_six (opField_reservedWord u 6) p
  case reserved7 u p => cases he; simpa using decodeRequest_of_op_seven (opField_reservedWord u 7) p
  all_goals cases he

/-! ### Wire command types -/

/-- A wire row is encoded as the command type it stands for (R71). -/
theorem encode_of_wireTypeOf {P : Params} {i : Instr} {t : I16} (h : wireTypeOf P i = some t) :
    encode P i = .wireType t ∧ i.wf = true := by
  cases i <;> simp [wireTypeOf] at h <;> subst h <;> exact ⟨rfl, rfl⟩

/-- R4 keeps the values of the wire rows apart: the `CT_*` are distinct and positive, the failure marker is negative. -/
theorem decodeWireType_of_wireTypeOf {P : Params} {i : Instr} {t : I16} (hP : P.wf = true)
    (h : wireTypeOf P i = some t) : decodeWireType P t = some i := by
  simp only [Params.wf, Bool.and_eq_true, decide_eq_true_eq] at hP
  obtain ⟨⟨⟨⟨⟨hneg, hpos⟩, hnodup⟩, -⟩, -⟩, -⟩ := hP
  have hfailed : P.failedType ∉ P.commandTypes := fun hmem =>
    failedType_ne_of_signs (of_decide_eq_true (List.all_eq_true.1 hpos _ hmem)) hneg rfl
  simp only [Params.commandTypes, List.nodup_cons, List.mem_cons, not_or, List.not_mem_nil] at hnodup hfailed
  cases i <;> simp only [wireTypeOf, Option.some.injEq, reduceCtorEq] at h <;> subst h <;>
    simp [decodeWireType, hnodup, hfailed, eq_comm]

/-! ### Both -/

/-- Every instruction is encoded as a request or as the command type of a wire row. -/
theorem encode_cases (P : Params) (i : Instr) :
    (∃ r, encode P i = .request r) ∨ ∃ t, encode P i = .wireType t ∧ wireTypeOf P i = some t := by
  cases i
  case cksInit | cksFeed | cksRead | encode | decode | execute | reserved6 | reserved7 => exact .inl ⟨_, rfl⟩
  all_goals exact .inr ⟨_, rfl, rfl⟩

/-! ### Assembled lines -/

/-- A line assembles to the encodings of the instructions it stands for (R75, R76). -/
theorem encode_lineInstrs (P : Params) (l : Line) :
    (lineInstrs P l).map (encode P) = (l.assemble P).map Encoded.request := by
  cases l
  case checksum p => simp [lineInstrs, Line.assemble, checksumRequests, encode]
  all_goals rfl

/-- The instructions of a line whose payload fits are well-formed (R66). -/
theorem lineInstrs_wf {P : Params} {l : Line} (h : (linePayload l).length ≤ 65535) :
    ∀ i ∈ lineInstrs P l, i.wf = true := by
  intro i hi
  cases l
  case checksum p =>
    simp only [lineInstrs, List.mem_append, List.mem_singleton, List.mem_map] at hi
    obtain (rfl | ⟨c, -, rfl⟩) | rfl := hi <;> rfl
  case encode | execute =>
    cases List.mem_singleton.1 hi
    exact decide_eq_true h
  all_goals
    cases List.mem_singleton.1 hi
    rfl

/-- Requests that encode well-formed instructions decode to them, in order. -/
theorem map_decodeRequest_of_encode {P : Params} {is : List Instr} {rs : List Request}
    (he : is.map (encode P) = rs.map Encoded.request) (hw : ∀ i ∈ is, i.wf = true) :
    rs.map (fun r => decodeRequest r.word r.pin) = is.map Decoded.instr := by
  induction rs generalizing is with
  | nil => simp_all
  | cons r rs ih =>
    obtain ⟨i, is, rfl, hi, his⟩ := List.map_eq_cons_iff.1 he
    rw [List.forall_mem_cons] at hw
    rw [List.map_cons, List.map_cons, decodeRequest_of_encode hw.1 hi, ih his hw.2]

end Sys2Proof.Machine

/-! ### The obligations -/

namespace Sys2Proof

open Sys2Proof.Machine

/-- Settles O48: the fields of a request word come back one by one, and R4 keeps the wire rows apart. -/
theorem decodeOfEncodeIsTheInstruction : Obligations.DecodeOfEncodeIsTheInstruction := by
  intro P i hP hw
  obtain ⟨r, he⟩ | ⟨t, he, ht⟩ := encode_cases P i
  · rw [he, decodeEncoded, decodeRequest_of_encode hw he, Decoded.toOption]
  · rw [he, decodeEncoded, decodeWireType_of_wireTypeOf hP ht]

/-- Settles O49: the decoder checks every field it does not carry over, and a named command type is its parameter's value. -/
theorem everyDecodedWordIsItsEncoding : Obligations.EveryDecodedWordIsItsEncoding := by
  intro P e i h
  cases e with
  | request r =>
    have hd : decodeRequest r.word r.pin = .instr i := by
      cases hr : decodeRequest r.word r.pin <;> simp [decodeEncoded, hr, Decoded.toOption] at h ⊢
      exact h
    exact ⟨encode_of_decodeRequest hd P, decodeRequest_wf hd⟩
  | wireType t => exact encode_of_wireTypeOf (decodeWireType_value h)

/-- Settles O50: the seven words, decoded. -/
theorem requestWordExamplesDecode : Obligations.RequestWordExamplesDecode := by
  unfold Obligations.RequestWordExamplesDecode
  decide

/-- Settles O51: an assembled line is the encodings of its instructions, which decode to them. -/
theorem assembledLinesDecodeToTheirInstructions : Obligations.AssembledLinesDecodeToTheirInstructions :=
  fun P l h => map_decodeRequest_of_encode (encode_lineInstrs P l) (lineInstrs_wf h)

end Sys2Proof
end

section
/-! PROOFS. The invariant (spec/10_state.md R24 to R31, spec/42_correlator.md R165): what `State.inv` says by the operation in
progress, that reset meets it, that every step keeps it, and that no state that meets it stops the machine. -/

namespace Sys2Proof.Machine

/-! ### What the invariant says -/

theorem State.inv_iff {s : State} :
    s.inv = true ↔ s.params.wf = true ∧ s.phasesAgree = true ∧ s.frm.consistent = true ∧
      (s.cor.fault = true → s.cor.dead = true) := by
  simp only [State.inv, Bool.and_eq_true, Bool.or_eq_true, Bool.not_eq_true', and_assoc]
  cases s.cor.fault <;> simp

theorem State.phasesAgree_of_idle {s : State} (h : s.op = .none) :
    s.phasesAgree = true ↔ s.frm.phase = .idle ∧ s.cor.phase = .idle := by
  simp [State.phasesAgree, h]

theorem State.phasesAgree_of_decode {s : State} {tmo : Bool} (h : s.op = .decode tmo) :
    s.phasesAgree = true ↔ s.frm.phase ≠ .idle ∧ s.cor.phase = .idle ∧ s.cor.dead = false := by
  simp [State.phasesAgree, h, and_assoc]

/-- The request of an EXECUTE in progress was admitted (R150). -/
def State.requestAdmitted (s : State) : Prop :=
  s.cor.dead = false ∧ 0 < s.cor.type.toInt ∧ s.cor.pay.length ≤ 65535

theorem State.phasesAgree_of_send {s : State} (h : s.op = .execute) (hp : s.cor.phase = .send) :
    s.phasesAgree = true ↔ s.requestAdmitted ∧ s.frm.phase = .idle ∧ s.cor.att.toNat < 3 := by
  simp only [State.phasesAgree, State.requestAdmitted, h, hp, Bool.and_eq_true, Bool.not_eq_true',
    decide_eq_true_eq, and_assoc]
  rfl

theorem State.phasesAgree_of_recv {s : State} (h : s.op = .execute) (hp : s.cor.phase = .recv) :
    s.phasesAgree = true ↔ s.requestAdmitted ∧ s.frm.phase ≠ .idle ∧ 1 ≤ s.cor.att.toNat := by
  simp only [State.phasesAgree, State.requestAdmitted, h, hp, Bool.and_eq_true, Bool.not_eq_true',
    decide_eq_true_eq, and_assoc]
  rfl

theorem State.phasesAgree_execute_phase_ne_idle {s : State} (h : s.op = .execute) (hi : s.phasesAgree = true) :
    s.cor.phase ≠ .idle := by
  intro hp
  simp [State.phasesAgree, h, hp] at hi

theorem Frm.consistent_of_idle {f : Frm} (h : f.phase = .idle) : f.consistent = true := by
  simp [Frm.consistent, h]

/-! ### The operations keep it -/

theorem State.boot_inv {P : Params} (h : P.wf = true) (L : Link) : (State.boot P L).inv = true :=
  State.inv_iff.2 ⟨h, rfl, rfl, by simp⟩

theorem State.resetBlock_inv {s : State} (h : s.inv = true) : s.resetBlock.inv = true :=
  State.inv_iff.2 ⟨(State.inv_iff.1 h).1, rfl, rfl, by simp⟩

theorem HostRun.inv {s t : State} {i : Instr} (h : HostRun s i t) (hs : s.inv = true) : t.inv = true := by
  obtain ⟨hw, hp, hc, hf⟩ := State.inv_iff.1 hs
  cases h
  case cksInit | cksFeed | cksRead | encode => exact hs
  case decode tmo ho hd =>
    obtain ⟨-, hcor⟩ := (State.phasesAgree_of_idle ho).1 hp
    exact State.inv_iff.2 ⟨hw, (State.phasesAgree_of_decode rfl).2 ⟨by simp, hcor, hd⟩, rfl, hf⟩
  case execute tmo ty p ho hd ht hl =>
    obtain ⟨hfrm, -⟩ := (State.phasesAgree_of_idle ho).1 hp
    exact State.inv_iff.2 ⟨hw, (State.phasesAgree_of_send rfl rfl).2 ⟨⟨hd, ht, hl⟩, hfrm, by simp⟩, hc, hf⟩

theorem sendStep_inv {s : State} (ho : s.op = .execute) (hph : s.cor.phase = .send) (hs : s.inv = true) :
    (sendStep s).inv = true := by
  obtain ⟨hw, hp, -, hf⟩ := State.inv_iff.1 hs
  obtain ⟨hr, -, hatt⟩ := (State.phasesAgree_of_send ho hph).1 hp
  have hcount : 1 ≤ (s.cor.att + 1).toNat := by simp; omega
  exact State.inv_iff.2
    ⟨hw, (State.phasesAgree_of_recv (s := sendStep s) ho rfl).2 ⟨hr, by simp [sendStep], hcount⟩, rfl, hf⟩

/-- A decode in progress: FRM is in a phase of it. -/
theorem State.inv_decoding {s : State} (hs : s.inv = true) (hd : s.decoding = true) : s.frm.phase ≠ .idle := by
  obtain ⟨-, hp, -, -⟩ := State.inv_iff.1 hs
  cases ho : s.op with
  | none => simp [State.decoding, ho] at hd
  | decode tmo => exact ((State.phasesAgree_of_decode ho).1 hp).1
  | execute =>
    have hph : s.cor.phase = .recv := by simpa [State.decoding, ho] using hd
    exact ((State.phasesAgree_of_recv ho hph).1 hp).2.1

/-- A read that goes on with the decode keeps the invariant. -/
theorem readStep_inv {s s' : State} (h : readStep s = some (none, s')) (hd : s.decoding = true) (hs : s.inv = true) :
    s'.inv = true := by
  obtain ⟨hw, hp, hc, hf⟩ := State.inv_iff.1 hs
  have hc' := readStep_consistent h hc
  obtain ⟨n, f, rfl, -, hphase, -⟩ := readStep_spec h
  have hne : f.phase ≠ .idle := by rcases hphase rfl with e | e <;> simp [e]
  refine State.inv_iff.2 ⟨hw, ?_, hc', hf⟩
  cases ho : s.op with
  | none => simp [State.decoding, ho] at hd
  | decode tmo =>
    obtain ⟨-, hcor, hdead⟩ := (State.phasesAgree_of_decode ho).1 hp
    exact (State.phasesAgree_of_decode rfl).2 ⟨hne, hcor, hdead⟩
  | execute =>
    have hph : s.cor.phase = .recv := by simpa [State.decoding, ho] using hd
    obtain ⟨hr, -, hatt⟩ := (State.phasesAgree_of_recv ho hph).1 hp
    exact (State.phasesAgree_of_recv rfl (by exact hph)).2 ⟨hr, hne, hatt⟩

/-- The end of an attempt leads from a decode that is over to a state of the invariant (R154 to R156). -/
theorem Settled.inv {s t : State} (h : Settled s t) (hw : s.params.wf = true) (ho : s.op = .execute)
    (hr : s.requestAdmitted) (hfrm : s.frm.phase = .idle) (hf : s.cor.fault = true → s.cor.dead = true) :
    t.inv = true := by
  have hc := Frm.consistent_of_idle hfrm
  cases h
  case completes => exact State.inv_iff.2 ⟨hw, (State.phasesAgree_of_idle rfl).2 ⟨hfrm, rfl⟩, hc, hf⟩
  case malformed => exact State.inv_iff.2 ⟨hw, (State.phasesAgree_of_idle rfl).2 ⟨hfrm, rfl⟩, hc, by simp⟩
  case exhausted => exact State.inv_iff.2 ⟨hw, (State.phasesAgree_of_idle rfl).2 ⟨hfrm, rfl⟩, hc, by simp⟩
  case retries hatt =>
    exact State.inv_iff.2 ⟨hw, (State.phasesAgree_of_send (by exact ho) rfl).2 ⟨hr, hfrm, hatt⟩, hc, hf⟩

/-- A read that ends the decode, with what the operation in progress does then. -/
theorem endDecode_inv {s s' : State} {o : DecodeOutcome} (h : readStep s = some (some o, s')) (hd : s.decoding = true)
    (hs : s.inv = true) : (endDecode o s').inv = true := by
  obtain ⟨hw, hp, -, hf⟩ := State.inv_iff.1 hs
  obtain ⟨n, f, rfl, -, -, hphase, -⟩ := readStep_spec h
  have hfrm : f.phase = .idle := hphase (by simp)
  cases ho : s.op with
  | none => simp [State.decoding, ho] at hd
  | decode tmo =>
    obtain ⟨-, hcor, -⟩ := (State.phasesAgree_of_decode ho).1 hp
    rw [endDecode_decode rfl]
    exact State.inv_iff.2 ⟨hw, (State.phasesAgree_of_idle rfl).2 ⟨hfrm, hcor⟩, Frm.consistent_of_idle hfrm, hf⟩
  | execute =>
    have hph : s.cor.phase = .recv := by simpa [State.decoding, ho] using hd
    obtain ⟨hr, -⟩ := (State.phasesAgree_of_recv ho hph).1 hp
    exact (endDecode_settled rfl o).inv hw rfl hr hfrm hf

/-! ### No state of the invariant stops the machine -/

/-- A request at the port always leads to a next state: it runs, or its refusal is recorded (log 9). -/
theorem hostTurn_next (w : BitVec 32) (pin : Bytes) (s : State) : ∃ t, hostTurn w pin s = .next t := by
  unfold hostTurn
  cases decodeRequest w pin with
  | instr i =>
    cases hx : exec i s with
    | next t => exact ⟨t, by simp [hx, settleRequest]⟩
    | fault f => exact absurd hx (exec_ne_fault i s f)
    | refused r => exact ⟨s.recordRefusal r, by simp [hx, settleRequest]⟩
  | rejected e => exact ⟨_, rfl⟩

theorem readTurn_next {s : State} (h : s.frm.phase ≠ .idle) : ∃ t, readTurn s = .next t := by
  obtain ⟨⟨o, s'⟩, hr⟩ := readStep_isSome h
  rw [readTurn_eq, hr]
  cases o <;> exact ⟨_, rfl⟩

theorem blockTurn_next {s : State} (h : s.inv = true) : ∃ t, blockTurn s = .next t := by
  by_cases hd : s.decoding = true
  · rw [blockTurn_of_decoding hd]
    exact readTurn_next (State.inv_decoding h hd)
  · obtain ⟨-, hp, -, -⟩ := State.inv_iff.1 h
    cases ho : s.op with
    | none => exact ⟨s, by simp [blockTurn, ho]⟩
    | decode tmo => simp [State.decoding, ho] at hd
    | execute =>
      cases hph : s.cor.phase with
      | idle => exact absurd hph (State.phasesAgree_execute_phase_ne_idle ho hp)
      | send => exact ⟨sendStep s, by simp [blockTurn, ho, hph]⟩
      | recv => simp [State.decoding, ho, hph] at hd

end Sys2Proof.Machine

/-! ### The obligations -/

namespace Sys2Proof

open Sys2Proof.Machine

/-- Settles O41: nothing is in progress and no fault is recorded after reset. -/
theorem resetMeetsTheInvariant : Obligations.ResetMeetsTheInvariant :=
  ⟨fun _ L h => State.boot_inv h L, rfl, State.boot_inv (by decide) _⟩

/-- Settles O42: case by case over what a step can do; a turn that only takes an event off the agenda, records a refusal or adds to RX
changes nothing the invariant speaks of. -/
theorem everyStepKeepsTheInvariant : Obligations.EveryStepKeepsTheInvariant := by
  intro s t hs h
  cases step_cases h
  case waits | refuses | delivers => exact hs
  case sends _ ho hp => exact sendStep_inv (s := { s with agenda := s.agenda.tail }) ho hp hs
  case reads _ hd hr => exact readStep_inv hr hd hs
  case ends _ hd hr => exact endDecode_inv hr hd hs
  case runs rest _ _ _ hrun => exact hrun.inv hs
  case resets rest _ => exact State.resetBlock_inv (s := { s with agenda := rest }) hs

/-- Settles O43: the invariant puts the block in a phase of its operation, and no other agent's turn can stop the machine. -/
theorem machineNeverStopsUnderTheInvariant : Obligations.MachineNeverStopsUnderTheInvariant := by
  intro s hs
  rcases ha : s.agenda with _ | ⟨_ | _ | _ | _, rest⟩ <;> simp only [step, takeTurn, ha]
  · exact blockTurn_next hs
  · exact hostTurn_next _ _ _
  · exact ⟨_, rfl⟩
  · exact blockTurn_next (s := { s with agenda := rest }) hs
  · exact ⟨_, rfl⟩

end Sys2Proof
end

section
/-! PROOFS. What cannot be told apart (spec/10_state.md R25, R28, R32; spec/70_reset_and_hazards.md R220). A change of the state that
every shared operation passes over is passed over by the step (`Unseen.onStep`); dropping the timeouts, the registers the spec
leaves unspecified, and the parameters that are not read are three such changes. -/

namespace Sys2Proof.Machine

/-! ### Changes of the state that a step does not see -/

/-- Up to `f`, no operation of the machine depends on what `f` changes: done after `f` or without it, each leads to the same state
as far as `f` tells. -/
structure Unseen (f : State → State) : Prop where
  idem (s : State) : f (f s) = f s
  agenda_eq (s : State) : (f s).agenda = s.agenda
  onAgenda (s : State) (a : List Event) : f { s with agenda := a } = { f s with agenda := a }
  op_eq (s : State) : (f s).op.withoutTimeout = s.op.withoutTimeout
  phase_eq (s : State) : (f s).cor.phase = s.cor.phase
  dead_eq (s : State) : (f s).cor.dead = s.cor.dead
  cks_eq (s : State) : (f s).cks = s.cks
  onCks (s : State) (k : Cks) : f { s with cks := k } = { f s with cks := k }
  onComplete (s : State) (r : Result) : f ((f s).complete r) = f (s.complete r)
  onDecode (s : State) (tmo : Bool) :
    f { f s with op := .decode tmo, frm := { (f s).frm with phase := .hdr } } =
      f { s with op := .decode tmo, frm := { s.frm with phase := .hdr } }
  onExecute (s : State) (tmo : Bool) (t : I16) (p : Bytes) :
    f { f s with
        cor := { (f s).cor with type := t, pay := p, tmo := tmo, att := 0, phase := .send }
        op := .execute } =
      f { s with
        cor := { s.cor with type := t, pay := p, tmo := tmo, att := 0, phase := .send }
        op := .execute }
  onRefusal (s : State) (r : Refusal) : f ((f s).recordRefusal r) = f (s.recordRefusal r)
  onDeliver (s : State) (b : Bytes) :
    f { f s with link := (f s).link.deliver b } = f { s with link := s.link.deliver b }
  onReset (s : State) : f (f s).resetBlock = f s.resetBlock
  onSend (s : State) : s.op = .execute → f (sendStep (f s)) = f (sendStep s)
  onRead (s : State) : (readStep (f s)).map (Prod.map id f) = (readStep s).map (Prod.map id f)
  onEnd (o : DecodeOutcome) (s : State) : f (endDecode o (f s)) = f (endDecode o s)

theorem State.busy_withoutTimeout {s s' : State} (h : s'.op.withoutTimeout = s.op.withoutTimeout) :
    s'.busy = s.busy := by
  unfold State.busy
  cases ho : s.op <;> cases ho' : s'.op <;> simp_all [BlkOp.withoutTimeout]

/-! ### Admission up to a change -/

theorem mapNext_whenIdle_congr {f : State → State} {s s' : State} {k k' : Answer State} (hb : s'.busy = s.busy)
    (hk : mapNext f k' = mapNext f k) : mapNext f (s'.whenIdle k') = mapNext f (s.whenIdle k) := by
  rw [mapNext_whenIdle, mapNext_whenIdle, hk, State.whenIdle, State.whenIdle, hb]

theorem mapNext_whenAlive_congr {f : State → State} {s s' : State} {k k' : Answer State}
    (hd : s'.cor.dead = s.cor.dead) (hk : mapNext f k' = mapNext f k) :
    mapNext f (s'.whenAlive k') = mapNext f (s.whenAlive k) := by
  rw [mapNext_whenAlive, mapNext_whenAlive, hk, State.whenAlive, State.whenAlive, hd]

theorem mapNext_whenPayloadFits_congr {f : State → State} {p : Bytes} {k k' : Answer State}
    (hk : mapNext f k' = mapNext f k) : mapNext f (whenPayloadFits p k') = mapNext f (whenPayloadFits p k) := by
  rw [mapNext_whenPayloadFits, mapNext_whenPayloadFits, hk]

namespace Unseen

variable {f : State → State} (hf : Unseen f)

include hf

theorem busy_eq (s : State) : (f s).busy = s.busy := State.busy_withoutTimeout (hf.op_eq s)

/-- The host operations. -/
theorem onExec {i : Instr} {P : Params} (hi : wireTypeOf P i = none) (s : State) :
    mapNext f (exec i (f s)) = mapNext f (exec i s) := by
  have hb := hf.busy_eq s
  have hd := hf.dead_eq s
  cases i <;> simp only [wireTypeOf, reduceCtorEq] at hi
  case cksInit =>
    simp only [exec, execCksInit, ← hf.onCks]
    exact mapNext_whenIdle_congr hb (congrArg Host.Outcome.next (hf.onComplete _ _))
  case cksFeed c =>
    simp only [exec, execCksFeed, hf.cks_eq, ← hf.onCks]
    exact mapNext_whenIdle_congr hb (congrArg Host.Outcome.next (hf.onComplete _ _))
  case cksRead =>
    simp only [exec, execCksRead, hf.cks_eq]
    exact mapNext_whenIdle_congr hb (congrArg Host.Outcome.next (hf.onComplete s _))
  case encode t p =>
    exact mapNext_whenPayloadFits_congr
      (mapNext_whenIdle_congr hb (congrArg Host.Outcome.next (hf.onComplete s _)))
  case decode tmo =>
    exact mapNext_whenIdle_congr hb (mapNext_whenAlive_congr hd (congrArg Host.Outcome.next (hf.onDecode s tmo)))
  case execute tmo t p =>
    refine mapNext_whenPayloadFits_congr (mapNext_whenIdle_congr hb ?_)
    split
    · rfl
    · exact mapNext_whenAlive_congr hd (congrArg Host.Outcome.next (hf.onExecute s tmo t p))
  case reserved6 | reserved7 => rfl

theorem onHostTurn (w : BitVec 32) (pin : Bytes) (s : State) :
    mapNext f (hostTurn w pin (f s)) = mapNext f (hostTurn w pin s) := by
  unfold hostTurn
  cases hd : decodeRequest w pin with
  | rejected e => exact congrArg Host.Outcome.next (hf.onRefusal s _)
  | instr i =>
    have hx := hf.onExec (decodeRequest_is_host hd s.params) s
    cases h : exec i s <;> cases h' : exec i (f s) <;> simp_all [settleRequest, mapNext, hf.onRefusal]

theorem onReadTurn (s : State) : mapNext f (readTurn (f s)) = mapNext f (readTurn s) := by
  have hr := hf.onRead s
  rw [readTurn_eq, readTurn_eq]
  rcases h : readStep s with _ | ⟨_ | o, t⟩ <;> rcases h' : readStep (f s) with _ | ⟨_ | o', t'⟩ <;>
    simp_all [mapNext]
  rw [← hf.onEnd o t', ← hf.onEnd o t, hr.2]

theorem onBlockTurn (s : State) : mapNext f (blockTurn (f s)) = mapNext f (blockTurn s) := by
  have ho := hf.op_eq s
  have hp := hf.phase_eq s
  cases h : s.op with
  | none =>
    have h' : (f s).op = .none := by cases h' : (f s).op <;> simp_all [BlkOp.withoutTimeout]
    simp only [blockTurn, h, h', mapNext, hf.idem]
  | decode tmo =>
    obtain ⟨tmo', h'⟩ : ∃ tmo', (f s).op = .decode tmo' := by
      cases h' : (f s).op <;> simp_all [BlkOp.withoutTimeout]
    simp only [blockTurn, h, h', hf.onReadTurn]
  | execute =>
    have h' : (f s).op = .execute := by cases h' : (f s).op <;> simp_all [BlkOp.withoutTimeout]
    simp only [blockTurn, h, h', hp]
    cases s.cor.phase with
    | idle => rfl
    | send => exact congrArg Host.Outcome.next (hf.onSend s h)
    | recv => exact hf.onReadTurn s

/-- What every operation passes over, the step passes over. -/
theorem onStep (s : State) : mapNext f (step (f s)) = mapNext f (step s) := by
  simp only [step, takeTurn, hf.agenda_eq]
  rcases s.agenda with _ | ⟨_ | _ | _ | _, rest⟩ <;> simp only
  · exact hf.onBlockTurn s
  · rw [← hf.onAgenda]
    exact hf.onHostTurn _ _ _
  · have h := hf.onDeliver { s with agenda := rest }
    rw [hf.onAgenda] at h
    exact congrArg Host.Outcome.next (h _)
  · rw [← hf.onAgenda]
    exact hf.onBlockTurn _
  · rw [← hf.onAgenda]
    exact congrArg Host.Outcome.next (hf.onReset _)

/-- States that `f` does not tell apart step to states that `f` does not tell apart. -/
theorem step_congr {s s' : State} (h : f s = f s') : mapNext f (step s) = mapNext f (step s') := by
  rw [← hf.onStep s, ← hf.onStep s', h]

end Unseen

/-! ### What a read step reads -/

/-- What a read step makes of FRM and the link: the outcome, if the decode ended, and FRM after it. -/
def Frm.readOn (f : Frm) (l : Link) : Option (Option DecodeOutcome × Frm) :=
  (readStep { State.reset with frm := f, link := l }).map (fun r => (r.1, r.2.frm))

/-- The number of bytes the read step of the phase asks for (R123, R125, R126). -/
def Frm.readSize (f : Frm) : Nat :=
  match f.phase with
  | .idle => 0
  | .hdr => 4
  | .pay => f.len.toNat
  | .ftr => 2

/-- A read step is a function of FRM and the link. -/
theorem readStep_eq (s : State) :
    readStep s = (s.frm.readOn s.link).map (fun r =>
      (r.1, { s with link := s.link.read s.frm.readSize (timeout s.tsel), frm := r.2 })) := by
  unfold Frm.readOn Frm.readSize readStep
  cases s.frm.phase with
  | idle => rfl
  | hdr =>
    simp only [headerStep]
    split
    · split_ifs <;> rfl
    · rfl
  | pay =>
    simp only [payloadStep]
    split_ifs <;> rfl
  | ftr =>
    simp only [footerStep]
    split
    · split_ifs <;> rfl
    · rfl

/-- The record of the accesses made is not read. -/
theorem Frm.readOn_log (f : Frm) (l : Link) (log : List LinkAccess) : f.readOn { l with log := log } = f.readOn l := by
  have hb : ∀ n, ({ l with log := log } : Link).readBytes n = l.readBytes n := fun _ => rfl
  unfold Frm.readOn readStep
  cases f.phase with
  | idle => rfl
  | hdr =>
    simp only [headerStep, hb]
    split
    · split_ifs <;> rfl
    · rfl
  | pay =>
    simp only [payloadStep, hb]
    split_ifs <;> rfl
  | ftr =>
    simp only [footerStep, hb]
    split
    · split_ifs <;> rfl
    · rfl

theorem Frm.withoutUnspecified_idem (f : Frm) : f.withoutUnspecified.withoutUnspecified = f.withoutUnspecified := by
  obtain ⟨ph, hdr, t, len, buf, ftr⟩ := f
  cases ph <;> rfl

theorem Frm.readSize_withoutUnspecified (f : Frm) : f.withoutUnspecified.readSize = f.readSize := by
  obtain ⟨ph, hdr, t, len, buf, ftr⟩ := f
  cases ph <;> rfl

/-- In no phase are FRM's unspecified registers read. -/
theorem Frm.readOn_withoutUnspecified (f : Frm) (l : Link) :
    (f.withoutUnspecified.readOn l).map (Prod.map id Frm.withoutUnspecified) =
      (f.readOn l).map (Prod.map id Frm.withoutUnspecified) := by
  obtain ⟨ph, hdr, t, len, buf, ftr⟩ := f
  cases ph with
  | idle => rfl
  | hdr =>
    show (Frm.readOn ⟨.hdr, [0, 0, 0, 0], 0, 0, [], 0⟩ l).map _ = _
    simp only [Frm.readOn, readStep, headerStep]
    split
    · split_ifs <;> rfl
    · rfl
  | pay =>
    show (Frm.readOn ⟨.pay, hdr, t, len, [], 0⟩ l).map _ = _
    simp only [Frm.readOn, readStep, payloadStep]
    split_ifs <;> rfl
  | ftr =>
    show (Frm.readOn ⟨.ftr, hdr, t, len, buf, 0⟩ l).map _ = _
    simp only [Frm.readOn, readStep, footerStep]
    split
    · split_ifs <;> rfl
    · rfl

/-! ### What the end of a decode reads -/

/-- The state with other contents in what the end of a decode only hands on. -/
def State.carrying (s : State) (P : Params) (f : Frm) (l : Link) (tmo : Bool) : State :=
  { s with params := P, frm := f, link := l, cor := { s.cor with tmo := tmo } }

section
variable (s : State) {P : Params} (f : Frm) (l : Link) (tmo : Bool)

theorem transient_carrying : transient (s.carrying P f l tmo) = (transient s).carrying P f l tmo := by
  have hatt : (s.carrying P f l tmo).cor.att = s.cor.att := rfl
  unfold transient
  rw [hatt]
  split_ifs <;> rfl

theorem failedResponse_carrying (p : Bytes) :
    failedResponse p (s.carrying P f l tmo) = (failedResponse p s).carrying P f l tmo := by
  unfold failedResponse
  split <;> rfl

variable (hP : P.failedType = s.params.failedType)
include hP

theorem respond_carrying (rt : I16) (rp : Bytes) :
    respond rt rp (s.carrying P f l tmo) = (respond rt rp s).carrying P f l tmo := by
  have htype : (s.carrying P f l tmo).cor.type = s.cor.type := rfl
  have hfailed : (s.carrying P f l tmo).params.failedType = s.params.failedType := hP
  unfold respond
  rw [transient_carrying, failedResponse_carrying, htype, hfailed]
  split_ifs <;> rfl

/-- Of the parameters the end of a decode reads the failure marker alone, and it reads neither FRM nor the link nor the timeout
selector. -/
theorem endDecode_carrying (o : DecodeOutcome) :
    endDecode o (s.carrying P f l tmo) = (endDecode o s).carrying P f l tmo := by
  have hop : (s.carrying P f l tmo).op = s.op := rfl
  unfold endDecode
  rw [hop]
  cases s.op with
  | none | decode => rfl
  | execute =>
    cases o with
    | packet rt rp => exact respond_carrying s f l tmo hP rt rp
    | shortHeader | shortPayload | shortFooter | checksumMismatch => exact transient_carrying s f l tmo

end

/-- The end of a decode leaves all of these as they were. -/
theorem endDecode_hands_on (o : DecodeOutcome) (s : State) :
    endDecode o s = (endDecode o s).carrying s.params s.frm s.link s.cor.tmo :=
  endDecode_carrying s s.frm s.link s.cor.tmo rfl o

theorem endDecode_of_idle {s : State} (h : s.op = .none) (o : DecodeOutcome) : endDecode o s = s := by
  simp only [endDecode, h]

/-! ### The parameters -/

/-- The parameters `Q`, but for the failure marker. -/
def State.withUnreadParams (Q : Params) (s : State) : State :=
  { s with params := { Q with failedType := s.params.failedType } }

theorem State.withUnreadParams_eq {Q : Params} {s : State} (h : Q.failedType = s.params.failedType) :
    s.withUnreadParams Q = { s with params := Q } := by
  rw [State.withUnreadParams, ← h]

theorem unseen_withUnreadParams (Q : Params) : Unseen (State.withUnreadParams Q) where
  idem _ := rfl
  agenda_eq _ := rfl
  onAgenda _ _ := rfl
  op_eq _ := rfl
  phase_eq _ := rfl
  dead_eq _ := rfl
  cks_eq _ := rfl
  onCks _ _ := rfl
  onComplete _ _ := rfl
  onDecode _ _ := rfl
  onExecute _ _ _ _ := rfl
  onRefusal _ _ := rfl
  onDeliver _ _ := rfl
  onReset _ := rfl
  onSend _ _ := rfl
  onRead s := by
    rw [readStep_eq, readStep_eq, Option.map_map, Option.map_map]
    rfl
  onEnd o s := by
    have h : endDecode o (s.withUnreadParams Q) = (endDecode o s).carrying _ s.frm s.link s.cor.tmo :=
      endDecode_carrying s (P := { Q with failedType := s.params.failedType }) s.frm s.link s.cor.tmo rfl o
    rw [h, endDecode_hands_on o s]
    rfl

/-! ### The timeouts -/

theorem LinkAccess.map_withoutTimeout_idem (log : List LinkAccess) :
    (log.map LinkAccess.withoutTimeout).map LinkAccess.withoutTimeout = log.map LinkAccess.withoutTimeout := by
  rw [List.map_map]
  exact List.map_congr_left fun a _ => by cases a <;> rfl

theorem BlkOp.withoutTimeout_idem (o : BlkOp) : o.withoutTimeout.withoutTimeout = o.withoutTimeout := by
  cases o <;> rfl

/-- The link without the recorded timeouts. -/
def Link.withoutTimeouts (l : Link) : Link := { l with log := l.log.map LinkAccess.withoutTimeout }

theorem Link.withoutTimeouts_idem (l : Link) : l.withoutTimeouts.withoutTimeouts = l.withoutTimeouts := by
  simp only [Link.withoutTimeouts, LinkAccess.map_withoutTimeout_idem]

/-- A read with another timeout is the same read but for the record of it. -/
theorem Link.withoutTimeouts_read (l : Link) (n t t' : Nat) :
    (l.withoutTimeouts.read n t').withoutTimeouts = (l.read n t).withoutTimeouts := by
  obtain ⟨m, tx, rx, draws, log⟩ := l
  cases m <;> simp only [Link.withoutTimeouts, Link.read, Link.readBytes, List.map_append, List.map_cons, List.map_nil,
    LinkAccess.map_withoutTimeout_idem, LinkAccess.withoutTimeout]

theorem State.withoutTimeouts_eq (s : State) : s.withoutTimeouts = { s with
    op := s.op.withoutTimeout, cor := { s.cor with tmo := false }, link := s.link.withoutTimeouts } := rfl

theorem unseen_withoutTimeouts : Unseen State.withoutTimeouts where
  idem _ := by simp only [State.withoutTimeouts_eq, BlkOp.withoutTimeout_idem, Link.withoutTimeouts_idem]
  agenda_eq _ := rfl
  onAgenda _ _ := rfl
  op_eq s := BlkOp.withoutTimeout_idem s.op
  phase_eq _ := rfl
  dead_eq _ := rfl
  cks_eq _ := rfl
  onCks _ _ := rfl
  onComplete _ _ := by simp only [State.withoutTimeouts_eq, State.complete, Link.withoutTimeouts_idem]
  onDecode _ _ := by simp only [State.withoutTimeouts_eq, Link.withoutTimeouts_idem]
  onExecute _ _ _ _ := by simp only [State.withoutTimeouts_eq, Link.withoutTimeouts_idem]
  onRefusal _ _ := by
    simp only [State.withoutTimeouts_eq, State.recordRefusal, BlkOp.withoutTimeout_idem, Link.withoutTimeouts_idem]
  onDeliver _ _ := by
    simp only [State.withoutTimeouts, Link.deliver, BlkOp.withoutTimeout_idem, LinkAccess.map_withoutTimeout_idem]
  onReset _ := by simp only [State.withoutTimeouts_eq, State.resetBlock, State.faultReached, Link.withoutTimeouts_idem]
  onSend s _ := by
    simp only [State.withoutTimeouts, sendStep, Link.write, List.map_append, BlkOp.withoutTimeout_idem,
      LinkAccess.map_withoutTimeout_idem]
  onRead s := by
    have hr : s.withoutTimeouts.frm.readOn s.withoutTimeouts.link = s.frm.readOn s.link := Frm.readOn_log _ _ _
    rw [readStep_eq, readStep_eq, hr, Option.map_map, Option.map_map]
    congr 1
    funext ⟨o, f⟩
    simp only [Function.comp, Prod.map, State.withoutTimeouts_eq, BlkOp.withoutTimeout_idem]
    rw [Link.withoutTimeouts_read]
  onEnd o s := by
    cases ho : s.op with
    | none =>
      rw [endDecode_of_idle ho, endDecode_of_idle (by simp [State.withoutTimeouts_eq, ho, BlkOp.withoutTimeout])]
      simp only [State.withoutTimeouts_eq, BlkOp.withoutTimeout_idem, Link.withoutTimeouts_idem]
    | decode tmo =>
      rw [endDecode_decode ho, endDecode_decode (s := s.withoutTimeouts) (congrArg BlkOp.withoutTimeout ho)]
      simp only [State.withoutTimeouts_eq, Link.withoutTimeouts_idem]
    | execute =>
      have hs : s.withoutTimeouts = s.carrying s.params s.frm s.link.withoutTimeouts false := by
        rw [State.withoutTimeouts_eq, ho]
        simp only [State.carrying, ho, BlkOp.withoutTimeout]
      rw [hs, endDecode_carrying s _ _ _ rfl, endDecode_hands_on o s]
      simp only [State.withoutTimeouts_eq, State.carrying, Link.withoutTimeouts_idem]

/-! ### The registers the spec leaves unspecified -/

theorem State.withoutUnspecified_idem (s : State) : s.withoutUnspecified.withoutUnspecified = s.withoutUnspecified := by
  obtain ⟨P, k, f, c, o, l, a, rs, fs, fc⟩ := s
  cases o <;> simp only [State.withoutUnspecified, State.corWithoutUnspecified, Frm.withoutUnspecified_idem]

/-- Of FRM after a read step only the specified registers are seen. -/
theorem map_withoutUnspecified_read (s : State) (l : Link) (r : Option (Option DecodeOutcome × Frm)) :
    (r.map fun r => (r.1, { s with link := l, frm := r.2 })).map (Prod.map id State.withoutUnspecified) =
      (r.map (Prod.map id Frm.withoutUnspecified)).map fun r =>
        (r.1, { s with link := l, frm := r.2, cor := s.corWithoutUnspecified }) := by
  cases r <;> rfl

/-- Of COR all but the request registers is seen. -/
theorem State.corWithoutUnspecified_update (s : State) (t : I16) (p : Bytes) (tmo : Bool) :
    ({ s.corWithoutUnspecified with type := t, pay := p, tmo := tmo } : Cor) =
      { s.cor with type := t, pay := p, tmo := tmo } := by
  unfold State.corWithoutUnspecified
  split <;> rfl

theorem unseen_withoutUnspecified : Unseen State.withoutUnspecified where
  idem := State.withoutUnspecified_idem
  agenda_eq _ := rfl
  onAgenda _ _ := rfl
  op_eq _ := rfl
  phase_eq s := (congrArg Cor.phase (s.corWithoutUnspecified_update 0 [] false) :)
  dead_eq s := (congrArg Cor.dead (s.corWithoutUnspecified_update 0 [] false) :)
  cks_eq _ := rfl
  onCks _ _ := rfl
  onComplete s r := congrArg₂ (fun f c => { s with frm := f, cor := c, op := .none, results := s.results ++ [r] })
    s.frm.withoutUnspecified_idem (s.corWithoutUnspecified_update 0 [] false)
  onDecode s tmo := congrArg (fun c => { s with frm := { Frm.reset with phase := .hdr }, cor := c, op := .decode tmo })
    (s.corWithoutUnspecified_update 0 [] false)
  onExecute s tmo t p := congrArg₂ (fun f c => { s with frm := f, cor := { c with att := 0, phase := .send }, op := .execute })
    s.frm.withoutUnspecified_idem (s.corWithoutUnspecified_update t p tmo)
  onRefusal s r := congrArg (State.recordRefusal · r) s.withoutUnspecified_idem
  onDeliver s b := congrArg (fun t => { t with link := t.link.deliver b }) s.withoutUnspecified_idem
  onReset s := (congrArg (fun c => ({ s with cor := c } : State).resetBlock.withoutUnspecified)
    (s.corWithoutUnspecified_update 0 [] false) :)
  onSend s h := by
    obtain ⟨P, k, f, c, o, l, a, rs, fs, fc⟩ := s
    cases h
    rfl
  onRead s := by
    have htsel : s.withoutUnspecified.tsel = s.tsel := by
      obtain ⟨P, k, f, c, o, l, a, rs, fs, fc⟩ := s
      cases o <;> rfl
    have hsize : s.withoutUnspecified.frm.readSize = s.frm.readSize := Frm.readSize_withoutUnspecified s.frm
    have hcor : s.withoutUnspecified.corWithoutUnspecified = s.corWithoutUnspecified := by
      obtain ⟨P, k, f, c, o, l, a, rs, fs, fc⟩ := s
      cases o <;> rfl
    rw [readStep_eq, readStep_eq, map_withoutUnspecified_read, map_withoutUnspecified_read, htsel, hsize, hcor,
      ← Frm.readOn_withoutUnspecified s.frm]
    rfl
  onEnd o s := by
    cases ho : s.op with
    | none =>
      rw [endDecode_of_idle ho, endDecode_of_idle (s := s.withoutUnspecified) ho, State.withoutUnspecified_idem]
    | decode tmo =>
      rw [endDecode_decode ho, endDecode_decode (s := s.withoutUnspecified) ho]
      simp only [State.withoutUnspecified, State.corWithoutUnspecified, Frm.withoutUnspecified_idem, ho]
    | execute =>
      have hs : s.withoutUnspecified = s.carrying s.params s.frm.withoutUnspecified s.link s.cor.tmo := by
        simp only [State.withoutUnspecified, State.carrying, State.corWithoutUnspecified, ho]
      rw [hs, endDecode_carrying s _ _ _ rfl, endDecode_hands_on o s]
      simp only [State.withoutUnspecified, State.carrying, Frm.withoutUnspecified_idem]
      rfl

/-! ### No step writes the parameters -/

@[simp] theorem endDecode_params (o : DecodeOutcome) (s : State) : (endDecode o s).params = s.params := by
  rw [endDecode_hands_on]
  rfl

theorem HostRun.params_eq {s t : State} {i : Instr} (h : HostRun s i t) : t.params = s.params := by
  cases h <;> rfl

theorem step_params {s t : State} (h : step s = .next t) : t.params = s.params := by
  cases step_cases h
  case waits | sends | refuses | delivers | resets => rfl
  case reads hs =>
    obtain ⟨l, f, rfl⟩ := readStep_frame hs
    rfl
  case ends hs =>
    obtain ⟨l, f, rfl⟩ := readStep_frame hs
    simp
  case runs hrun => exact hrun.params_eq

end Sys2Proof.Machine

/-! ### The obligations -/

namespace Sys2Proof

open Sys2Proof.Machine

/-- Settles O54: what reads these registers has written them in the same operation. -/
theorem unspecifiedRegistersDecideNothing : Obligations.UnspecifiedRegistersDecideNothing :=
  fun _ _ h => unseen_withoutUnspecified.step_congr h

/-- Settles O52: the timeout of a read goes into the record of it and nowhere else. -/
theorem timeoutsDecideNothing : Obligations.TimeoutsDecideNothing :=
  ⟨rfl, rfl, fun _ _ h => unseen_withoutTimeouts.step_congr h⟩

/-- Settles O53: the step does not see a change of the parameters that keeps the failure marker, and it writes none of them. -/
theorem onlyTheFailureMarkerIsRead : Obligations.OnlyTheFailureMarkerIsRead := by
  intro s Q hQ
  have h := (unseen_withUnreadParams Q).onStep s
  rw [State.withUnreadParams_eq hQ] at h
  cases ht : step s <;> cases hu : step { s with params := Q } <;> simp only [ht, hu, mapNext, reduceCtorEq] at h ⊢
  case next.next t u =>
    have hup : Q = u.params := (step_params hu).symm
    rw [Host.Outcome.next.injEq, State.withUnreadParams_eq (by rw [← hup]),
      State.withUnreadParams_eq (by rw [step_params ht, hQ])] at h
    rw [← h, hup]
  all_goals exact h

end Sys2Proof
end

section
/-! PROOFS. The checksum of a byte string (spec/40_checksum.md R100, R101, R107, R108): one byte step is the bitwise CRC's
(`cksValue_cksStep`) and loses nothing (`cksStep_eq_iff`); and the run of the CHECKSUM expansion (R76, R105). -/

namespace Sys2Proof.Machine

/-! ### The two accumulators and their value -/

@[simp] theorem hiByte_cksValue (a : Byte × Byte) : hiByte (cksValue a) = a.1 := hiByte_be16 a.1 a.2

@[simp] theorem loByte_cksValue (a : Byte × Byte) : loByte (cksValue a) = a.2 := loByte_be16 a.1 a.2

theorem cksValue_inj {a b : Byte × Byte} : cksValue a = cksValue b ↔ a = b := by
  refine ⟨fun h => Prod.ext ?_ ?_, congrArg cksValue⟩
  · rw [← hiByte_cksValue a, h, hiByte_cksValue]
  · rw [← loByte_cksValue a, h, loByte_cksValue]

/-! ### The bitwise CRC (R107) -/

theorem crcBit_xor (a b : U16) : crcBit (a ^^^ b) = crcBit a ^^^ crcBit b := by
  have cancel (g x y : U16) : x ^^^ y = (x ^^^ g) ^^^ (y ^^^ g) := by
    rw [BitVec.xor_assoc, BitVec.xor_comm y g, ← BitVec.xor_assoc g, BitVec.xor_self, BitVec.zero_xor]
  unfold crcBit
  rw [BitVec.msb_xor, BitVec.shiftLeft_xor_distrib]
  cases a.msb <;> cases b.msb
  · rfl
  · exact BitVec.xor_assoc ..
  · show (a <<< 1 ^^^ b <<< 1) ^^^ 0x1021 = (a <<< 1 ^^^ 0x1021) ^^^ b <<< 1
    rw [BitVec.xor_assoc, BitVec.xor_assoc, BitVec.xor_comm (b <<< 1)]
  · exact cancel 0x1021 _ _

theorem repeat_crcBit_xor (n : Nat) (a b : U16) :
    Nat.repeat crcBit n (a ^^^ b) = Nat.repeat crcBit n a ^^^ Nat.repeat crcBit n b := by
  induction n with
  | zero => rfl
  | succ n ih => simp only [Nat.repeat, ih, crcBit_xor]

/-- After eight bits a byte in the low half of the register stands in the high half. -/
theorem repeat_crcBit_low (l : Byte) : Nat.repeat crcBit 8 ((0 : Byte) ++ l) = l ++ (0 : Byte) := by
  revert l
  decide

/-- After eight bits a byte in the high half of the register has gone through the generator, as in the byte step. -/
theorem repeat_crcBit_high (x : Byte) : Nat.repeat crcBit 8 (x ++ (0 : Byte)) = cksValue (cksStep (0, 0) x) := by
  revert x
  decide

/-- The byte step goes through the generator with the sum of the byte and the high accumulator, and adds the low one. -/
theorem cksStep_eq_xor (a : Byte × Byte) (c : Byte) :
    cksStep a c = (a.2 ^^^ (cksStep (0, 0) (c ^^^ a.1)).1, (cksStep (0, 0) (c ^^^ a.1)).2) := by
  simp only [cksStep, BitVec.xor_zero, BitVec.zero_xor, BitVec.xor_assoc, BitVec.ofNat_eq_ofNat]

/-- One byte: both steps are additive, so the two halves of the register can be followed apart. -/
theorem cksValue_cksStep (a : Byte × Byte) (c : Byte) : cksValue (cksStep a c) = crcByte (cksValue a) c := by
  obtain ⟨m, l⟩ := a
  have hregister : (m ++ l : U16) ^^^ (c ++ (0 : Byte)) = ((c ^^^ m) ++ (0 : Byte)) ^^^ ((0 : Byte) ++ l) := by
    rw [BitVec.xor_append, BitVec.xor_append, BitVec.xor_comm m c]
    simp
  show cksValue (cksStep (m, l) c) = Nat.repeat crcBit 8 ((m ++ l : U16) ^^^ (c ++ (0 : Byte)))
  rw [hregister, repeat_crcBit_xor, repeat_crcBit_low, repeat_crcBit_high, cksStep_eq_xor, cksValue, cksValue,
    BitVec.xor_append, BitVec.xor_comm l]
  exact congrArg _ (BitVec.xor_zero).symm

theorem cksValue_cksFold (a : Byte × Byte) (s : Bytes) : cksValue (cksFold a s) = s.foldl crcByte (cksValue a) := by
  induction s generalizing a with
  | nil => rfl
  | cons c s ih =>
    rw [List.foldl_cons, ← cksValue_cksStep, ← ih]
    rfl

/-! ### The byte step loses nothing -/

theorem xor_shiftRight_four_involutive : Function.Involutive (fun x : Byte => x ^^^ x >>> 4) := by
  unfold Function.Involutive
  decide

theorem xor_shiftLeft_five_involutive : Function.Involutive (fun y : Byte => y ^^^ y <<< 5) := by
  unfold Function.Involutive
  decide

/-- The new low accumulator tells the byte that went in. -/
theorem cksStep_snd_eq_iff {a b : Byte × Byte} {c d : Byte} :
    (cksStep a c).2 = (cksStep b d).2 ↔ c ^^^ a.1 = d ^^^ b.1 := by
  refine ⟨fun h => ?_, fun h => by simp only [cksStep, h]⟩
  exact xor_shiftRight_four_involutive.injective (xor_shiftLeft_five_involutive.injective h)

theorem cksStep_eq_iff {a b : Byte × Byte} {c d : Byte} :
    cksStep a c = cksStep b d ↔ c ^^^ a.1 = d ^^^ b.1 ∧ a.2 = b.2 := by
  rw [Prod.ext_iff, cksStep_snd_eq_iff, and_comm]
  refine and_congr_right fun h => ?_
  simp only [cksStep, h, BitVec.xor_left_inj]

theorem cksStep_left_inj {a b : Byte × Byte} {c : Byte} : cksStep a c = cksStep b c ↔ a = b := by
  rw [cksStep_eq_iff, BitVec.xor_right_inj, Prod.ext_iff]

theorem cksStep_right_inj {a : Byte × Byte} {c d : Byte} : cksStep a c = cksStep a d ↔ c = d := by
  rw [cksStep_eq_iff, BitVec.xor_left_inj, and_iff_left rfl]

theorem cksFold_left_inj {a b : Byte × Byte} {s : Bytes} : cksFold a s = cksFold b s ↔ a = b := by
  induction s generalizing a b with
  | nil => rfl
  | cons c s ih => exact ih.trans cksStep_left_inj

theorem cksFold_append (a : Byte × Byte) (s t : Bytes) : cksFold a (s ++ t) = cksFold (cksFold a s) t :=
  List.foldl_append

/-- Of two strings that differ in one byte at most the checksums are equal only if the strings are. -/
theorem checksum_eq_iff_byte_eq (before after : Bytes) {c d : Byte} :
    checksum (before ++ [c] ++ after) = checksum (before ++ [d] ++ after) ↔ c = d := by
  simp only [checksum, cksValue_inj, cksFold_append, cksFold_left_inj]
  exact cksStep_right_inj

/-! ### The checksum with the footer (R108) -/

/-- The accumulators come to zero exactly when the two bytes fed are the accumulators. -/
theorem cksFold_pair_eq_zero_iff {a : Byte × Byte} {f0 f1 : Byte} :
    cksFold a [f0, f1] = (0, 0) ↔ f0 = a.1 ∧ f1 = a.2 := by
  have hzero : cksFold a [a.1, a.2] = (0, 0) := by simp [cksFold, cksStep]
  constructor
  · intro h
    rw [← hzero] at h
    obtain ⟨hfst, hsnd⟩ := cksStep_eq_iff.1 (show cksStep (cksStep a f0) f1 = cksStep (cksStep a a.1) a.2 from h)
    have h0 : f0 = a.1 := (BitVec.xor_left_inj _).1 (cksStep_snd_eq_iff.1 hsnd)
    rw [h0] at hfst
    exact ⟨h0, (BitVec.xor_left_inj _).1 hfst⟩
  · rintro ⟨rfl, rfl⟩
    exact hzero

/-- A footer is the checksum of what stands before it exactly when the checksum of it all is zero. -/
theorem checksum_footer_iff (b : Bytes) (f0 f1 : Byte) : checksum (b ++ [f0, f1]) = 0 ↔ be16 f0 f1 = checksum b := by
  have hvalue : be16 f0 f1 = cksValue (f0, f1) := rfl
  have hzero : (0 : U16) = cksValue (0, 0) := rfl
  rw [checksum, checksum, hvalue, hzero, cksValue_inj, cksValue_inj, cksFold_append, cksFold_pair_eq_zero_iff, Prod.ext_iff]

theorem checksum_frame (t : I16) (p : Bytes) : checksum (frame t p) = 0 := by
  rw [frame, tobe16, checksum_footer_iff, be16_bytes]

/-- A single bit of a byte. -/
theorem xor_bit_ne (c : Byte) {k : Nat} (h : k < 8) : c ^^^ (1 : Byte) <<< k ≠ c := by
  have hbit : (1 : Byte) <<< k ≠ 0 := by
    revert k
    decide
  intro he
  exact hbit ((BitVec.xor_right_inj c).1 (he.trans (BitVec.xor_zero).symm))

/-! ### The CHECKSUM expansion (R76, R105) -/

/-- A host request that decodes to an instruction and is admitted runs it. -/
theorem step_of_request {s t : State} {w : BitVec 32} {pin : Bytes} {rest : List Event} {i : Instr}
    (ha : s.agenda = .hostRequest w pin :: rest) (hd : decodeRequest w pin = .instr i)
    (hx : exec i { s with agenda := rest } = .next t) : step s = .next t := by
  simp only [step, takeTurn, ha, hostTurn, hd, hx, settleRequest]

theorem step_cksInit {s : State} {rest : List Event} (h : s.busy = false)
    (ha : s.agenda = .hostRequest (requestWord 0 0 0 false 0) [] :: rest) :
    step s = .next { s with agenda := rest, cks := ⟨0xFF, 0xFF⟩, results := s.results ++ [.ok] } :=
  step_of_request ha rfl (execCksInit_of_idle (s := { s with agenda := rest }) h)

theorem step_cksFeed {s : State} {rest : List Event} {c : Byte} (h : s.busy = false)
    (ha : s.agenda = .hostRequest (requestWord 0 c 0 false 1) [] :: rest) :
    step s = .next { s with
      agenda := rest
      cks := ⟨(cksStep (s.cks.msb, s.cks.lsb) c).1, (cksStep (s.cks.msb, s.cks.lsb) c).2⟩
      results := s.results ++ [.ok] } :=
  step_of_request ha (decodeRequest_eq_cksFeed_iff.2 (by simp)) (execCksFeed_of_idle (s := { s with agenda := rest }) h c)

theorem step_cksRead {s : State} {rest : List Event} (h : s.busy = false)
    (ha : s.agenda = .hostRequest (requestWord 0 0 0 false 2) [] :: rest) :
    step s = .next { s with
      agenda := rest, results := s.results ++ [.value (cksValue (s.cks.msb, s.cks.lsb))] } :=
  step_of_request ha rfl (execCksRead_of_idle (s := { s with agenda := rest }) h)

/-- The requests of CKS_FEED for each byte of `p`. -/
def feedEvents (p : Bytes) : List Event := p.map fun c => .hostRequest (requestWord 0 c 0 false 1) []

theorem hostRequests_checksumRequests (p : Bytes) :
    hostRequests (checksumRequests p) =
      .hostRequest (requestWord 0 0 0 false 0) [] :: (feedEvents p ++ [.hostRequest (requestWord 0 0 0 false 2) []]) := by
  simp [hostRequests, checksumRequests, feedEvents]

theorem runTurns_feedEvents (p : Bytes) {s : State} {rest : List Event} (h : s.busy = false)
    (ha : s.agenda = feedEvents p ++ rest) :
    runTurns p.length s = .next { s with
      agenda := rest
      cks := ⟨(cksFold (s.cks.msb, s.cks.lsb) p).1, (cksFold (s.cks.msb, s.cks.lsb) p).2⟩
      results := s.results ++ List.replicate p.length .ok } := by
  induction p generalizing s with
  | nil =>
    obtain rfl : rest = s.agenda := ha.symm
    simp [cksFold]
  | cons c p ih =>
    rw [List.length_cons, runTurns_of_step (step_cksFeed h ha), ih]
    · simp [cksFold, List.replicate_succ]
    · exact h
    · rfl

end Sys2Proof.Machine

/-! ### The obligations -/

namespace Sys2Proof

open Sys2Proof.Machine

/-- Settles O5: byte by byte, from the same initial register. -/
theorem checksumEqualsBitwiseCrc : Obligations.ChecksumEqualsBitwiseCrc :=
  fun s => cksValue_cksFold (Config.cksInitMsb, Config.cksInitLsb) s

/-- Settles O6: the footer is the checksum of the bytes before it. -/
theorem frameResidueIsZero : Obligations.FrameResidueIsZero := checksum_frame

/-- Settles O7: the step of the changed byte leads to other accumulators, and no later step brings them together again. -/
theorem checksumDetectsEveryOneBitChange : Obligations.ChecksumDetectsEveryOneBitChange :=
  fun before after c _ hk h => xor_bit_ne c hk ((checksum_eq_iff_byte_eq before after).1 h)

/-- Settles O8: the first request sets the initial accumulators, each byte is one step, and the last request presents the value. -/
theorem checksumExpansionComputesChecksum : Obligations.ChecksumExpansionComputesChecksum := by
  intro p s h
  have hinit := step_cksInit (s := { s with agenda := hostRequests (checksumRequests p) }) h
    (hostRequests_checksumRequests p)
  refine (runTurns_of_step hinit _).trans ?_
  refine (runTurns_add 1 (runTurns_feedEvents p (by exact h) rfl)).trans ?_
  refine (runTurns_of_step (step_cksRead (by exact h) rfl) 0).trans ?_
  simp [checksum, List.replicate_succ, Config.cksInitMsb, Config.cksInitLsb]

end Sys2Proof
end

section
/-! PROOFS. A decode left to run (spec/41_framer.md R122 to R132): it ends within three reads under both link models, on the reference
link with the outcome of the pure frame decoder (`exists_decodeRun`); what that decoder makes of a frame and of a frame with one bit
flipped. -/

namespace Sys2Proof.Machine

/-! ### The pure frame decoder by phases (R123 to R127) -/

/-- The footer phase on the bytes `rx`, after the bytes `body` and the payload `p` of a packet of type `t`. -/
def footerOn (t : I16) (body p rx : Bytes) : DecodeOutcome × Bytes :=
  match rx with
  | f0 :: f1 :: left => if be16 f0 f1 = checksum body then (.packet t p, left) else (.checksumMismatch, left)
  | _ => (.shortFooter, [])

/-- The payload phase on the bytes `rx`, after a header `hdr` that announces `len` bytes. -/
def payloadOn (t : I16) (hdr : Bytes) (len : Nat) (rx : Bytes) : DecodeOutcome × Bytes :=
  if rx.length < len then (.shortPayload, []) else footerOn t (hdr ++ rx.take len) (rx.take len) (rx.drop len)

theorem decodeFrame_cons (b0 b1 b2 b3 : Byte) (rest : Bytes) :
    decodeFrame (b0 :: b1 :: b2 :: b3 :: rest) =
      payloadOn (be16 b0 b1) [b0, b1, b2, b3] (be16 b2 b3).toNat rest := rfl

theorem decodeFrame_of_short {rx : Bytes} (h : rx.length < 4) : decodeFrame rx = (.shortHeader, []) := by
  match rx, h with
  | [], _ | [_], _ | [_, _], _ | [_, _, _], _ => rfl

theorem payloadOn_of_short {rx : Bytes} {len : Nat} (h : rx.length < len) (t : I16) (hdr : Bytes) :
    payloadOn t hdr len rx = (.shortPayload, []) := if_pos h

theorem payloadOn_of_le {rx : Bytes} {len : Nat} (h : len ≤ rx.length) (t : I16) (hdr : Bytes) :
    payloadOn t hdr len rx = footerOn t (hdr ++ rx.take len) (rx.take len) (rx.drop len) := if_neg (Nat.not_lt.2 h)

theorem footerOn_of_short {rx : Bytes} (h : rx.length < 2) (t : I16) (body p : Bytes) :
    footerOn t body p rx = (.shortFooter, []) := by
  match rx, h with
  | [], _ | [_], _ => rfl

theorem be16_eq_iff {a b : Byte} {v : U16} : be16 a b = v ↔ [a, b] = tobe16 v := by
  constructor
  · rintro rfl
    exact (tobe16_be16 a b).symm
  · intro h
    simp only [tobe16, List.cons.injEq, and_true] at h
    rw [h.1, h.2, be16_bytes]

theorem footerOn_of_match {rx body : Bytes} (h : rx.take 2 = tobe16 (checksum body)) (t : I16) (p : Bytes) :
    footerOn t body p rx = (.packet t p, rx.drop 2) := by
  match rx, h with
  | f0 :: f1 :: left, h => exact if_pos (be16_eq_iff.2 h)

theorem footerOn_of_mismatch {rx body : Bytes} (hl : 2 ≤ rx.length) (h : rx.take 2 ≠ tobe16 (checksum body)) (t : I16)
    (p : Bytes) : footerOn t body p rx = (.checksumMismatch, rx.drop 2) := by
  match rx, hl, h with
  | f0 :: f1 :: left, _, h => exact if_neg (fun he => h (be16_eq_iff.1 he))

/-! ### The decode in progress, as the pure decoder on what is on RX -/

/-- What the decode in progress makes of the bytes `rx`, by its phase; none outside a decode. -/
def Frm.outcomeOn (f : Frm) (rx : Bytes) : Option (DecodeOutcome × Bytes) :=
  match f.phase with
  | .idle => none
  | .hdr => some (decodeFrame rx)
  | .pay => some (payloadOn f.type f.hdr f.len.toNat rx)
  | .ftr => some (footerOn f.type (f.hdr ++ f.buf) f.buf rx)

/-- The reads a decode has still to make, at most. -/
def Frm.readsLeft (f : Frm) : Nat :=
  match f.phase with
  | .idle => 0
  | .hdr => 3
  | .pay => 2
  | .ftr => 1

theorem Frm.outcomeOn_of_hdr {f : Frm} (h : f.phase = .hdr) (rx : Bytes) : f.outcomeOn rx = some (decodeFrame rx) := by
  simp only [Frm.outcomeOn, h]

theorem Frm.outcomeOn_of_pay {f : Frm} (h : f.phase = .pay) (rx : Bytes) :
    f.outcomeOn rx = some (payloadOn f.type f.hdr f.len.toNat rx) := by
  simp only [Frm.outcomeOn, h]

theorem Frm.outcomeOn_of_ftr {f : Frm} (h : f.phase = .ftr) (rx : Bytes) :
    f.outcomeOn rx = some (footerOn f.type (f.hdr ++ f.buf) f.buf rx) := by
  simp only [Frm.outcomeOn, h]

/-- A read step brings the decode one read nearer to its end. -/
theorem readStep_readsLeft {s s' : State} (h : readStep s = some (none, s')) : s'.frm.readsLeft < s.frm.readsLeft := by
  cases hp : s.frm.phase with
  | idle => simp [readStep, hp] at h
  | hdr =>
    obtain ⟨n, f, rfl, -, hnext, -⟩ := readStep_spec h
    rcases hnext rfl with e | e <;> simp [Frm.readsLeft, hp, e]
  | pay =>
    rcases (s.link.readBytes_length_le s.frm.len.toNat).lt_or_eq with hl | hl
    · rw [readStep_payload_of_short hp hl] at h
      cases h
    · rw [readStep_payload_of_full hp hl] at h
      cases h
      simp [Frm.readsLeft, hp]
  | ftr =>
    simp only [readStep, hp, footerStep, Option.some.injEq] at h
    split at h
    · split_ifs at h <;> cases h
    · cases h

/-- What a read step does agrees with the pure decoder: either the decode goes on to the same outcome, or this is it. -/
theorem readStep_outcomeOn {s s' : State} {o : Option DecodeOutcome} (h : readStep s = some (o, s'))
    (hm : s.link.model = .reference) :
    s.frm.outcomeOn s.link.rx = o.elim (s'.frm.outcomeOn s'.link.rx) (fun o => some (o, s'.link.rx)) := by
  have hb := Link.readBytes_reference hm
  have hx := Link.read_rx_reference hm
  cases hp : s.frm.phase with
  | idle => simp [readStep, hp] at h
  | hdr =>
    rw [Frm.outcomeOn_of_hdr hp]
    match hrx : s.link.rx with
    | b0 :: b1 :: b2 :: b3 :: rest =>
      have hr : s.link.readBytes 4 = [b0, b1, b2, b3] := by simp [hb, hrx]
      by_cases hl : be16 b2 b3 = 0
      · rw [readStep_header_of_len_zero hp hr hl] at h
        cases h
        simp [Frm.outcomeOn, hx, hrx, decodeFrame_cons, payloadOn, hl]
      · rw [readStep_header_of_len_ne_zero hp hr hl] at h
        cases h
        simp [Frm.outcomeOn, hx, hrx, decodeFrame_cons]
    | [] | [_] | [_, _] | [_, _, _] =>
      rw [readStep_header_of_short hp (by simp [hb, hrx])] at h
      cases h
      simp [hx, hrx, decodeFrame_of_short]
  | pay =>
    rw [Frm.outcomeOn_of_pay hp]
    rcases Nat.lt_or_ge s.link.rx.length s.frm.len.toNat with hl | hl
    · rw [readStep_payload_of_short hp (by simpa [hb] using hl)] at h
      cases h
      simp [hx, payloadOn_of_short hl, hl.le]
    · rw [readStep_payload_of_full hp (by simpa [hb] using hl)] at h
      cases h
      simp [Frm.outcomeOn, hx, hb, payloadOn_of_le hl]
  | ftr =>
    rw [Frm.outcomeOn_of_ftr hp]
    match hrx : s.link.rx with
    | f0 :: f1 :: left =>
      have hr : s.link.readBytes 2 = [f0, f1] := by simp [hb, hrx]
      by_cases hc : be16 f0 f1 = checksum (s.frm.hdr ++ s.frm.buf)
      · rw [readStep_footer_of_match hp hr hc] at h
        cases h
        simp [footerOn, hc, hx, hrx]
      · rw [readStep_footer_of_mismatch hp hr hc] at h
        cases h
        simp [footerOn, hc, hx, hrx]
    | [] | [_] =>
      rw [readStep_footer_of_short hp (by simp [hb, hrx])] at h
      cases h
      simp [hx, hrx, footerOn]

/-! ### The decode left to run -/

/-- From `l` to `l'` at most `k` reads were made, and no other access. -/
structure Link.OnlyRead (k : Nat) (l l' : Link) : Prop where
  model : l'.model = l.model
  tx : l'.tx = l.tx
  log : ∃ reads, l'.log = l.log ++ reads ∧ reads.length ≤ k ∧ ∀ a ∈ reads, ∃ n τ r, a = LinkAccess.read n τ r

theorem Link.OnlyRead.refl (k : Nat) (l : Link) : l.OnlyRead k l := ⟨rfl, rfl, [], by simp⟩

theorem Link.OnlyRead.of_read {k n t : Nat} {l l' : Link} (h : (l.read n t).OnlyRead k l') : l.OnlyRead (k + 1) l' := by
  obtain ⟨hm, ht, reads, hlog, hlen, hall⟩ := h
  refine ⟨by simpa using hm, by simpa using ht, .read n t (l.readBytes n) :: reads, by simpa using hlog,
    by simpa using hlen, ?_⟩
  exact List.forall_mem_cons.2 ⟨⟨_, _, _, rfl⟩, hall⟩

/-- From `s`, within `n` turns, the decode in progress ends with the outcome `o`, having left `l` of the link and `f` of FRM; on the
reference link `o` is the pure decoder's, and `l` holds the bytes that decoder leaves. -/
structure DecodeRun (n : Nat) (s : State) (o : DecodeOutcome) (l : Link) (f : Frm) : Prop where
  run : ∃ k ≤ n, runTurns k s = .next (endDecode o { s with link := l, frm := f })
  idle : f.phase = .idle
  link : s.link.OnlyRead n l
  outcome : s.link.model = .reference → s.frm.outcomeOn s.link.rx = some (o, l.rx)

/-- A decode to which the turns are left ends within the reads it has still to make. -/
theorem exists_decodeRun {n : Nat} {s : State} (hn : s.frm.readsLeft ≤ n) (hp : s.frm.phase ≠ .idle)
    (hd : s.decoding = true) (ha : s.agenda = []) : ∃ o l f, DecodeRun n s o l f := by
  induction n generalizing s with
  | zero =>
    cases he : s.frm.phase <;> simp [Frm.readsLeft, he] at hn
    exact absurd he hp
  | succ n ih =>
    obtain ⟨⟨o, s'⟩, hr⟩ := readStep_isSome hp
    have hstep := step_of_decoding (by simp [State.blockMoves, ha]) hd hr
    have hout := readStep_outcomeOn hr
    have hleft := @readStep_readsLeft s s'
    obtain ⟨m, f, rfl, -, hnext, hend, -⟩ := readStep_spec hr
    rw [ha, List.tail_nil, ← ha] at hstep
    cases o with
    | some o =>
      exact ⟨o, _, f, ⟨1, by omega, runTurns_of_step hstep 0⟩, hend (by simp), (Link.OnlyRead.refl n _).of_read, hout⟩
    | none =>
      have hlt := hleft hr
      have hne : f.phase ≠ .idle := by rcases hnext rfl with e | e <;> simp [e]
      obtain ⟨o, l, f', ⟨k, hk, hrun⟩, hidle, hlink, ho⟩ := ih (Nat.le_of_lt_succ (hlt.trans_le hn)) hne hd ha
      exact ⟨o, l, f', ⟨k + 1, by omega, (runTurns_of_step hstep k).trans hrun⟩, hidle, hlink.of_read,
        fun hm => (hout hm).trans (ho (by simpa using hm))⟩

/-- A DECODE at its first read. -/
theorem exists_decodeRun_of_decode {s : State} {tmo : Bool} (ho : s.op = .decode tmo) (hp : s.frm.phase = .hdr)
    (ha : s.agenda = []) : ∃ o l f, DecodeRun 3 s o l f :=
  exists_decodeRun (by simp [Frm.readsLeft, hp]) (by simp [hp]) (by simp [State.decoding, ho]) ha

/-- On the reference link a DECODE has the outcome of the pure frame decoder. -/
theorem State.decodesTo_decodeFrame {s : State} {rx : Bytes} (h : s.decodeOn rx) :
    s.decodesTo (decodeFrame rx).1 (decodeFrame rx).2 := by
  obtain ⟨⟨tmo, ho⟩, hp, hm, rfl, ha⟩ := h
  obtain ⟨o, l, f, ⟨k, hk, hrun⟩, hidle, -, hout⟩ := exists_decodeRun_of_decode ho hp ha
  rw [endDecode_decode (by exact ho)] at hrun
  rw [Frm.outcomeOn_of_hdr hp, Option.some.injEq] at hout
  rw [hout hm]
  exact ⟨k, _, hk, hrun, rfl, hidle, rfl, rfl⟩

theorem State.decodesTo_of_decodeFrame_eq {s : State} {rx left : Bytes} {o : DecodeOutcome} (h : s.decodeOn rx)
    (he : decodeFrame rx = (o, left)) : s.decodesTo o left := by
  simpa [he] using State.decodesTo_decodeFrame h

/-! ### Frames under the pure decoder -/

/-- The header gives the type and the length (R124). -/
theorem decodeFrame_header (t : I16) (len : U16) (rest : Bytes) :
    decodeFrame (tobe16 t ++ tobe16 len ++ rest) = payloadOn t (tobe16 t ++ tobe16 len) len.toNat rest := by
  show decodeFrame (hiByte t :: loByte t :: hiByte len :: loByte len :: rest) = _
  rw [decodeFrame_cons, be16_bytes, be16_bytes]
  rfl

/-- R131: decoding a frame gives its type and payload, and leaves what follows it. -/
theorem decodeFrame_frame {p : Bytes} (hp : p.length ≤ 65535) (t : I16) (rest : Bytes) :
    decodeFrame (frame t p ++ rest) = (.packet t p, rest) := by
  have hlen := toNat_ofNat_length_of_le hp
  rw [frame, frameHeader, List.append_assoc, List.append_assoc, decodeFrame_header, hlen, payloadOn_of_le (by simp),
    List.take_left, List.drop_left, footerOn_of_match rfl]
  rfl

/-- Bytes of the length that their header announces are a packet only if their checksum is zero (R108 law 3). -/
theorem decodeFrame_of_checksum_ne_zero {b0 b1 : Byte} {len : U16} {rest : Bytes} (hl : rest.length = len.toNat + 2)
    (hc : checksum ([b0, b1] ++ tobe16 len ++ rest) ≠ 0) :
    decodeFrame ([b0, b1] ++ tobe16 len ++ rest) = (.checksumMismatch, []) := by
  have hdrop : (rest.drop len.toNat).length = 2 := by simp [hl]
  obtain ⟨f0, f1, hf⟩ := List.length_eq_two.1 hdrop
  have hsplit : rest = rest.take len.toNat ++ [f0, f1] := by rw [← hf, List.take_append_drop]
  have hne : (rest.drop len.toNat).take 2 ≠ tobe16 (checksum ([b0, b1] ++ tobe16 len ++ rest.take len.toNat)) := by
    rw [hf]
    intro he
    rw [hsplit, ← List.append_assoc] at hc
    exact hc ((checksum_footer_iff _ f0 f1).2 (be16_eq_iff.2 he))
  rw [← tobe16_be16 b0 b1] at hne ⊢
  rw [decodeFrame_header, payloadOn_of_le (by omega), footerOn_of_mismatch hdrop.ge hne, hf]
  rfl

/-- A byte string with the byte in place `i` changed, taken apart at that place. -/
theorem set_eq_append {l : Bytes} {i : Nat} (h : i < l.length) (c : Byte) :
    l.set i c = l.take i ++ [c] ++ l.drop (i + 1) := by
  rw [List.set_eq_take_append_cons_drop, if_pos h, List.append_assoc]
  rfl

/-- One flipped bit of a frame gives another checksum than the frame's, which is zero (R108). -/
theorem checksum_flipped_frame_ne_zero (t : I16) (p : Bytes) {i k : Nat} (hi : i < 6 + p.length) (hk : k < 8) :
    checksum ((frame t p).set i ((frame t p).getD i 0 ^^^ (1 : Byte) <<< k)) ≠ 0 := by
  have hi' : i < (frame t p).length := by simpa using hi
  have hself : checksum ((frame t p).take i ++ [(frame t p).getD i 0] ++ (frame t p).drop (i + 1)) = 0 := by
    rw [← set_eq_append hi', List.getD_eq_getElem _ _ hi', List.set_getElem_self, checksum_frame]
  rw [set_eq_append hi']
  exact fun h => xor_bit_ne _ hk ((checksum_eq_iff_byte_eq _ _).1 (h.trans hself.symm))

/-- A frame with a byte outside the length field changed: the length field and the number of bytes after it stay (R67). -/
theorem set_frame_eq {t : I16} {p : Bytes} {i : Nat} (h2 : i ≠ 2) (h3 : i ≠ 3) (c : Byte) :
    ∃ b0 b1 rest, (frame t p).set i c = [b0, b1] ++ tobe16 (BitVec.ofNat 16 p.length) ++ rest ∧
      rest.length = p.length + 2 := by
  match i, h2, h3 with
  | 0, _, _ => exact ⟨c, loByte t, (frame t p).drop 4, rfl, by simp; omega⟩
  | 1, _, _ => exact ⟨hiByte t, c, (frame t p).drop 4, rfl, by simp; omega⟩
  | j + 4, _, _ => exact ⟨hiByte t, loByte t, ((frame t p).drop 4).set j c, rfl, by simp; omega⟩

/-- R132 part 1. -/
theorem decodeFrame_flipped_frame {p : Bytes} {i k : Nat} (hp : p.length ≤ 65535) (t : I16) (hi : i < 6 + p.length)
    (h2 : i ≠ 2) (h3 : i ≠ 3) (hk : k < 8) :
    decodeFrame ((frame t p).set i ((frame t p).getD i 0 ^^^ (1 : Byte) <<< k)) = (.checksumMismatch, []) := by
  have hc := checksum_flipped_frame_ne_zero t p hi hk
  obtain ⟨b0, b1, rest, he, hl⟩ := set_frame_eq (t := t) (p := p) h2 h3 ((frame t p).getD i 0 ^^^ (1 : Byte) <<< k)
  rw [he] at hc ⊢
  exact decodeFrame_of_checksum_ne_zero (by rw [hl, toNat_ofNat_length_of_le hp]) hc

/-! ### DECODE's admission -/

theorem execDecode_of_alive {s : State} (hi : s.busy = false) (hd : s.cor.dead = false) (tmo : Bool) :
    execDecode tmo s = .next { s with op := .decode tmo, frm := { s.frm with phase := .hdr } } := by
  rw [execDecode, State.whenIdle_of_idle hi, State.whenAlive_of_alive hd]

theorem decodeRequest_eq_decode_iff {w : BitVec 32} {pin : Bytes} {tmo : Bool} :
    decodeRequest w pin = .instr (.decode tmo) ↔
      opField w = 4 ∧ typeField w = 0 ∧ byteField w = 0 ∧ rsvField w = 0 ∧ pin = [] ∧ tmoField w = tmo := by
  constructor
  · intro h
    cases encode_of_decodeRequest h Params.reference
    simp
  · rintro ⟨hop, ht, hb, hrsv, rfl, rfl⟩
    simp [decodeRequest, hop, ht, hb, hrsv]

/-- In a DECODE the end of the decode presents its outcome. -/
theorem finishDecode_of_decode {s : State} {tmo : Bool} {o : DecodeOutcome} (ho : s.op = .decode tmo)
    (h : ∀ t p, o = .packet t p → s.frm.buf = p) :
    finishDecode o s = .next { s with op := .none, results := s.results ++ [o.result] } := by
  rw [finishDecode_eq h, endDecode_decode ho]

end Sys2Proof.Machine

/-! ### The obligations -/

namespace Sys2Proof

open Sys2Proof.Machine

/-- Settles O15: the pure decoder gives back the frame's parts, and the DECODE does as it does. -/
theorem decodeRoundTripsEveryFrame : Obligations.DecodeRoundTripsEveryFrame :=
  fun _ t _ rest hp h => State.decodesTo_of_decodeFrame_eq h (decodeFrame_frame hp t rest)

/-- Settles O14: each read step agrees with the pure decoder on what is left of RX. -/
theorem decodeRefinesThePureFrameDecoder : Obligations.DecodeRefinesThePureFrameDecoder := by
  rintro s rx ⟨⟨tmo, ho⟩, hp, hm, rfl, ha⟩
  obtain ⟨o, l, f, ⟨k, hk, hrun⟩, hidle, hlink, hout⟩ := exists_decodeRun_of_decode ho hp ha
  rw [endDecode_decode (by exact ho)] at hrun
  rw [Frm.outcomeOn_of_hdr hp, Option.some.injEq] at hout
  rw [hout hm]
  exact ⟨k, _, hk, hrun, rfl, hidle, rfl, rfl, hlink.tx, rfl, rfl, rfl, rfl, rfl, ha⟩

/-- Settles O16: the length field is intact, so as many bytes are read as were sent, and their checksum is not zero. -/
theorem bitFlipOutsideTheLengthGivesMismatch : Obligations.BitFlipOutsideTheLengthGivesMismatch :=
  fun _ t _ _ _ hp hi h2 h3 hk h => State.decodesTo_of_decodeFrame_eq h (decodeFrame_flipped_frame hp t hi h2 h3 hk)

/-- Settles O17: the pure decoder on the payload and the footer with a wrong length. -/
theorem bitFlipInTheLengthFollowsTheCaseSplit : Obligations.BitFlipInTheLengthFollowsTheCaseSplit := by
  intro s t p k hp hk l' hdr' rest h
  have hrest : rest.length = p.length + 2 := by simp [rest]; omega
  have hlen : (BitVec.ofNat 16 l').toNat = l' := by simp [l']
  have hdecode : decodeFrame (hdr' ++ rest) = payloadOn t hdr' l' rest := by
    rw [decodeFrame_header, hlen]
  refine ⟨fun hl => ?_, fun hl hl' => ?_, fun hl => ?_⟩
  · exact State.decodesTo_of_decodeFrame_eq h (hdecode.trans (payloadOn_of_short (by omega) t hdr'))
  · rw [payloadOn_of_le (by omega), footerOn_of_short (by rw [List.length_drop]; omega)] at hdecode
    exact State.decodesTo_of_decodeFrame_eq h hdecode
  · have htake : rest.take l' = p.take l' := List.take_append_of_le_length hl.le
    have htwo : 2 ≤ (rest.drop l').length := by rw [List.length_drop]; omega
    rw [payloadOn_of_le (by omega), htake] at hdecode
    refine ⟨by rw [List.length_drop]; omega, fun hf => ?_, fun hf => ?_⟩
    · rw [footerOn_of_mismatch htwo hf, List.drop_drop] at hdecode
      exact State.decodesTo_of_decodeFrame_eq h hdecode
    · rw [footerOn_of_match hf, List.drop_drop] at hdecode
      exact State.decodesTo_of_decodeFrame_eq h hdecode

/-- Settles O55: each read brings the decode nearer to its end, whatever it returns. -/
theorem decodeCompletesWithinItsBounds : Obligations.DecodeCompletesWithinItsBounds := by
  intro s tmo ho hp ha
  obtain ⟨o, l, f, ⟨k, hk, hrun⟩, hidle, ⟨-, htx, reads, hlog, hlen, hall⟩, -⟩ := exists_decodeRun_of_decode ho hp ha
  rw [endDecode_decode (by exact ho)] at hrun
  exact ⟨k, _, o, reads, hk, hrun, rfl, hidle, rfl, hlog, hlen, hall, htx, rfl, rfl, rfl, rfl, rfl, ha⟩

/-- Settles O11: the block's being busy is checked before `COR.DEAD`, the words that encode the operation, and its end. -/
theorem decodeStartsAndEndsWithItsOutcome : Obligations.DecodeStartsAndEndsWithItsOutcome := by
  refine ⟨fun tmo _ hi hd => execDecode_of_alive hi hd tmo, fun _ _ hb => State.whenIdle_of_busy hb _,
    fun tmo _ hi hd => execDecode_of_dead hi hd tmo, fun _ _ _ => decodeRequest_eq_decode_iff,
    fun s tmo ho => ⟨fun t => ?_, ?_⟩⟩
  · exact finishDecode_of_decode ho (by simp)
  · exact ⟨finishDecode_of_decode ho (by simp), finishDecode_of_decode ho (by simp), finishDecode_of_decode ho (by simp),
      finishDecode_of_decode ho (by simp)⟩

end Sys2Proof
end

section
/-! PROOFS. An EXECUTE left to run (spec/42_correlator.md R150 to R165): an attempt is the send step and a decode (`exists_attempt`),
its outcome is the verdict of R165 (`endDecode_of_verdict_some`, `endDecode_of_verdict_none`), and at most three attempts end it
(`exists_executeRun`), on the reference link as the pure correlator. -/

namespace Sys2Proof.Machine

/-! ### The verdict on an outcome (R154 to R156, R161, R165) -/

/-- The verdict completes EXECUTE; the record alone decides the flags (R29, R30). -/
theorem endDecode_of_verdict_some {s : State} {o : DecodeOutcome} {r : Result} (ho : s.op = .execute)
    (hv : verdict s.params s.cor.type o = some r) :
    endDecode o s = { s with
      cor := { s.cor with
        phase := .idle, dead := s.cor.dead || r.setsDead, fault := s.cor.fault || r.setsFault }
      op := .none
      results := s.results ++ [r] } := by
  cases o with
  | shortHeader | shortPayload | shortFooter | checksumMismatch => cases hv
  | packet rt rp =>
    rw [endDecode_packet_of_execute ho]
    simp only [verdict] at hv
    split_ifs at hv with ht hf hl
    · cases hv
      rw [respond_of_match ht]
      simp [State.finish, State.complete, Result.setsDead, Result.setsFault]
    · cases hv
      rw [respond_of_failed ht hf]
      match rp, hl with
      | [b0, b1, b2, b3], _ => simp [failedResponse_of_four, State.finish, State.complete, Result.setsDead, Result.setsFault]
    · cases hv
      rw [respond_of_failed ht hf, failedResponse_of_other hl]
      simp [Result.setsDead, Result.setsFault]

/-- Without a verdict the outcome is transient. -/
theorem endDecode_of_verdict_none {s : State} {o : DecodeOutcome} (ho : s.op = .execute)
    (hv : verdict s.params s.cor.type o = none) : endDecode o s = transient s := by
  refine endDecode_transient ho ?_
  rintro rt rp rfl
  simp only [verdict] at hv
  split_ifs at hv with ht hf
  exact ⟨ht, hf⟩

theorem verdict_ne_transportExhausted {P : Params} {t : I16} {o : DecodeOutcome} {r : Result}
    (hv : verdict P t o = some r) : r ≠ .transportExhausted := by
  rintro rfl
  cases o with
  | shortHeader | shortPayload | shortFooter | checksumMismatch => cases hv
  | packet rt rp =>
    simp only [verdict] at hv
    split_ifs at hv <;> cases hv

/-! ### The pure correlator, one attempt -/

theorem executeOn_of_verdict_some {P : Params} {t : I16} {rx rx' : Bytes} {o : DecodeOutcome} {r : Result}
    (hd : decodeFrame rx = (o, rx')) (hv : verdict P t o = some r) (left : Nat) :
    executeOn P t (left + 1) rx = (r, 1, rx') := by
  simp only [executeOn, hd, hv]

theorem executeOn_of_verdict_none {P : Params} {t : I16} {rx rx' : Bytes} {o : DecodeOutcome}
    (hd : decodeFrame rx = (o, rx')) (hv : verdict P t o = none) (left : Nat) :
    executeOn P t (left + 1) rx =
      ((executeOn P t left rx').1, (executeOn P t left rx').2.1 + 1, (executeOn P t left rx').2.2) := by
  simp only [executeOn, hd, hv]

/-! ### One attempt -/

/-- EXECUTE after an attempt whose outcome is not yet classified, having left `l` of the link and `f` of FRM. -/
def State.attempted (s : State) (l : Link) (f : Frm) : State :=
  { s with cor := { s.cor with att := s.cor.att + 1, phase := .recv }, link := l, frm := f }

/-- An attempt: the request frame is written, and a response decoded. -/
structure Attempt (s : State) (o : DecodeOutcome) (l : Link) (f : Frm) : Prop where
  run : ∃ k ≤ 4, runTurns k s = .next (endDecode o (s.attempted l f))
  link : (s.link.write (frame s.cor.type s.cor.pay)).OnlyRead 3 l
  outcome : s.link.model = .reference → decodeFrame s.link.rx = (o, l.rx)

theorem exists_attempt {s : State} (ho : s.op = .execute) (hp : s.cor.phase = .send) (ha : s.agenda = []) :
    ∃ o l f, Attempt s o l f := by
  have hstep := step_of_sending (by simp [State.blockMoves, ha]) ho hp
  rw [ha, List.tail_nil, ← ha] at hstep
  obtain ⟨o, l, f, ⟨k, hk, hrun⟩, -, hlink, hout⟩ := exists_decodeRun (n := 3) (s := sendStep s)
    (by simp [Frm.readsLeft, sendStep]) (by simp [sendStep]) (by simp [State.decoding, sendStep, ho]) ha
  refine ⟨o, l, f, ⟨k + 1, by omega, (runTurns_of_step hstep k).trans hrun⟩, hlink, fun hm => ?_⟩
  exact Option.some.inj (hout hm)

/-! ### At most three attempts -/

/-- From `s`, within `left` attempts, EXECUTE completes with the record `r` in the state `t`, having made `n` of them. -/
structure ExecuteRun (left : Nat) (s t : State) (r : Result) (n : Nat) : Prop where
  run : ∃ k ≤ 4 * left, runTurns k s = .next t
  op : t.op = .none
  phase : t.cor.phase = .idle
  results : t.results = s.results ++ [r]
  count : 1 ≤ n ∧ n ≤ left
  att : t.cor.att.toNat = s.cor.att.toNat + n
  tx : t.link.tx = s.link.tx ++ (List.replicate n (frame s.cor.type s.cor.pay)).flatten
  exhausted : r = .transportExhausted → n = left
  cks : t.cks = s.cks
  dead : t.cor.dead = (s.cor.dead || r.setsDead)
  outcome : s.link.model = .reference → executeOn s.params s.cor.type left s.link.rx = (r, n, t.link.rx)

section
variable {s : State} {o : DecodeOutcome} {l : Link} {f : Frm} {left : Nat}

/-- The attempts are counted in two bits, which hold three (R27). -/
theorem toNat_att_add_one {a : BitVec 2} (h : a.toNat < 3) : (a + 1).toNat = a.toNat + 1 := by
  have hmod : (a + 1).toNat = (a.toNat + 1) % 4 := BitVec.toNat_add a 1
  omega

/-- An attempt with a verdict is the last. -/
theorem Attempt.completes (h : Attempt s o l f) (ho : s.op = .execute) (hatt : s.cor.att.toNat < 3) {r : Result}
    (hv : verdict s.params s.cor.type o = some r) : ∃ t, ExecuteRun (left + 1) s t r 1 := by
  obtain ⟨⟨k, hk, hrun⟩, hlink, hout⟩ := h
  rw [endDecode_of_verdict_some (s := s.attempted l f) ho hv] at hrun
  exact ⟨_, {
    run := ⟨k, by omega, hrun⟩
    op := rfl
    phase := rfl
    results := rfl
    count := by omega
    att := toNat_att_add_one hatt
    tx := by simpa [State.attempted] using hlink.tx
    exhausted := fun hr => absurd hr (verdict_ne_transportExhausted hv)
    cks := rfl
    dead := rfl
    outcome := fun hm => executeOn_of_verdict_some (hout hm) hv left }⟩

/-- The third attempt without a verdict exhausts EXECUTE. -/
theorem Attempt.exhausts (h : Attempt s o l f) (ho : s.op = .execute) (hatt : s.cor.att.toNat = 2)
    (hv : verdict s.params s.cor.type o = none) : ∃ t, ExecuteRun 1 s t .transportExhausted 1 := by
  obtain ⟨⟨k, hk, hrun⟩, hlink, hout⟩ := h
  have hthree : (s.cor.att + 1).toNat = 3 := by rw [toNat_att_add_one (by omega), hatt]
  rw [endDecode_of_verdict_none (s := s.attempted l f) ho hv, transient_exhausts (by exact hthree)] at hrun
  exact ⟨_, {
    run := ⟨k, by omega, hrun⟩
    op := rfl
    phase := rfl
    results := rfl
    count := by omega
    att := toNat_att_add_one (by omega)
    tx := by simpa [State.attempted] using hlink.tx
    exhausted := fun _ => rfl
    cks := rfl
    dead := by simp [Result.setsDead]
    outcome := fun hm => executeOn_of_verdict_none (hout hm) hv 0 }⟩

/-- An earlier attempt without a verdict is followed by another. -/
theorem Attempt.retries (h : Attempt s o l f) (ho : s.op = .execute) (hatt : s.cor.att.toNat < 2)
    (hv : verdict s.params s.cor.type o = none) {t : State} {r : Result} {n : Nat}
    (ht : ExecuteRun left { s.attempted l f with cor := { (s.attempted l f).cor with phase := .send } } t r n) :
    ExecuteRun (left + 1) s t r (n + 1) := by
  obtain ⟨⟨k, hk, hrun⟩, hlink, hout⟩ := h
  obtain ⟨⟨k', hk', hrun'⟩, hop, hphase, hres, hcount, hatt', htx, hex, hcks, hdead, hout'⟩ := ht
  have hadd := toNat_att_add_one (show s.cor.att.toNat < 3 by omega)
  have hfew : (s.cor.att + 1).toNat < 3 := by omega
  rw [endDecode_of_verdict_none (s := s.attempted l f) ho hv, transient_retries (by exact hfew)] at hrun
  exact {
    run := ⟨k + k', by omega, (runTurns_add k' hrun).trans hrun'⟩
    op := hop
    phase := hphase
    results := hres
    count := by omega
    att := by
      have : t.cor.att.toNat = (s.cor.att + 1).toNat + n := hatt'
      omega
    tx := by
      have hl : l.tx = s.link.tx ++ frame s.cor.type s.cor.pay := hlink.tx
      simpa [State.attempted, List.replicate_succ, hl] using htx
    exhausted := fun hr => congrArg (· + 1) (hex hr)
    cks := hcks
    dead := hdead
    outcome := fun hm => by
      have hm' : l.model = .reference := hlink.model.trans hm
      have he : executeOn s.params s.cor.type left l.rx = (r, n, t.link.rx) := hout' hm'
      rw [executeOn_of_verdict_none (hout hm) hv, he] }

end

/-- An EXECUTE to which the turns are left completes within the attempts it may still make. -/
theorem exists_executeRun {left : Nat} {s : State} (ho : s.op = .execute) (hp : s.cor.phase = .send)
    (ha : s.agenda = []) (hatt : s.cor.att.toNat + (left + 1) = 3) : ∃ t r n, ExecuteRun (left + 1) s t r n := by
  induction left generalizing s with
  | zero =>
    obtain ⟨o, l, f, h⟩ := exists_attempt ho hp ha
    cases hv : verdict s.params s.cor.type o with
    | some r =>
      obtain ⟨t, ht⟩ := h.completes ho (by omega) hv
      exact ⟨t, r, 1, ht⟩
    | none =>
      obtain ⟨t, ht⟩ := h.exhausts ho (by omega) hv
      exact ⟨t, _, 1, ht⟩
  | succ left ih =>
    obtain ⟨o, l, f, h⟩ := exists_attempt ho hp ha
    cases hv : verdict s.params s.cor.type o with
    | some r =>
      obtain ⟨t, ht⟩ := h.completes ho (by omega) hv
      exact ⟨t, r, 1, ht⟩
    | none =>
      have hadd := toNat_att_add_one (show s.cor.att.toNat < 3 by omega)
      have hleft : (s.cor.att + 1).toNat + (left + 1) = 3 := by omega
      obtain ⟨t, r, n, ht⟩ := ih (s := { s.attempted l f with cor := { (s.attempted l f).cor with phase := .send } })
        ho rfl ha hleft
      exact ⟨t, r, n + 1, h.retries ho (by omega) hv ht⟩

/-- A packet of neither type leaves no verdict. -/
theorem verdict_of_unrelated {P : Params} {t rt : I16} (ht : rt ≠ t) (hf : rt ≠ P.failedType) (rp : Bytes) :
    verdict P t (.packet rt rp) = none := by
  rw [verdict, if_neg ht, if_neg hf]

theorem verdict_of_match (P : Params) (t : I16) (rp : Bytes) : verdict P t (.packet t rp) = some (.response rp) := by
  rw [verdict, if_pos rfl]

end Sys2Proof.Machine

/-! ### The obligations -/

namespace Sys2Proof

open Sys2Proof.Machine

/-- Settles O23: three attempts of at most four turns each. -/
theorem executeCompletesWithinItsBounds : Obligations.ExecuteCompletesWithinItsBounds := by
  intro s _ ho hp hatt ha
  obtain ⟨t, r, n, ⟨k, hk, hrun⟩, hop, hphase, hres, hcount, hatt', htx, hex, hcks, -, -⟩ :=
    exists_executeRun (left := 2) ho hp ha (by simp [hatt])
  exact ⟨k, n, t, r, hk, hrun, hop, hphase, hres, hcount.1, hcount.2, by simpa [hatt] using hatt', htx, hex, hcks⟩

/-- Settles O24: each attempt is one of the pure correlator's. -/
theorem executeRefinesThePureCorrelator : Obligations.ExecuteRefinesThePureCorrelator := by
  intro s ho hp hatt ha hm
  obtain ⟨t, r, n, ⟨k, hk, hrun⟩, hop, -, hres, -, -, htx, -, -, -, hout⟩ :=
    exists_executeRun (left := 2) ho hp ha (by simp [hatt])
  rw [hout hm]
  exact ⟨k, t, hk, hrun, hop, hres, htx, rfl⟩

/-- Settles O25: the pure correlator on the three frames. -/
theorem matchAfterTwoUnrelatedResponsesSucceeds : Obligations.MatchAfterTwoUnrelatedResponsesSucceeds := by
  intro s t1 t2 p1 p2 rp rest ho hp hatt ha hm hp1 hp2 hrp ht1 hf1 ht2 hf2 hrx
  obtain ⟨t, r, n, ⟨k, hk, hrun⟩, hop, -, hres, -, -, htx, -, -, hdead, hout⟩ :=
    exists_executeRun (left := 2) ho hp ha (by simp [hatt])
  have hpure : executeOn s.params s.cor.type 3 s.link.rx = (.response rp, 3, rest) := by
    rw [hrx, List.append_assoc, List.append_assoc,
      executeOn_of_verdict_none (decodeFrame_frame hp1 t1 _) (verdict_of_unrelated ht1 hf1 p1),
      executeOn_of_verdict_none (decodeFrame_frame hp2 t2 _) (verdict_of_unrelated ht2 hf2 p2),
      executeOn_of_verdict_some (decodeFrame_frame hrp s.cor.type rest) (verdict_of_match ..)]
  rw [hpure, Prod.mk.injEq, Prod.mk.injEq] at hout
  obtain ⟨rfl, rfl, hleft⟩ := hout hm
  exact ⟨k, t, hk, hrun, hop, hres, htx, hleft.symm, by simpa [Result.setsDead] using hdead⟩

end Sys2Proof
end

section
/-! PROOFS. Records, refusals and whole turns: the wire rows at the end of a decode (spec/30_encoding.md R70, R71), the link's reads
(spec/20_memory.md R42 to R44, R48), one record for each operation (R73), the refusals in the order of R188, and good runs (R183, R184). -/

namespace Sys2Proof.Machine

/-! ### Wire rows -/

/-- In an EXECUTE a wire row is the classification of its type. -/
theorem exec_wire_of_execute {i : Instr} {t : I16} {s : State} (h : wireTypeOf s.params i = some t)
    (ho : s.op = .execute) : exec i s = .next (respond t s.frm.buf s) := by
  rw [exec_wire h, endDecode_packet_of_execute ho]

/-! ### Reads -/

theorem Link.readBytes_length_reference {l : Link} (h : l.model = .reference) (n : Nat) :
    (l.readBytes n).length = min n l.rx.length := by
  rw [Link.readBytes_reference h, List.length_take]

theorem timeout_tsel_of_decode {s : State} {tmo : Bool} (h : s.op = .decode tmo) :
    timeout s.tsel = if tmo then 5 else 1 := by
  simp only [State.tsel, h]
  rfl

theorem timeout_tsel_of_execute {s : State} (h : s.op = .execute) : timeout s.tsel = if s.cor.tmo then 5 else 1 := by
  simp only [State.tsel, h]
  rfl

/-- The request registers stay as they are at the end of an attempt. -/
theorem Settled.request_eq {s t : State} (h : Settled s t) :
    t.cor.tmo = s.cor.tmo ∧ t.cor.type = s.cor.type ∧ t.cor.pay = s.cor.pay := by
  cases h <;> exact ⟨rfl, rfl, rfl⟩

theorem endDecode_request_eq (o : DecodeOutcome) (s : State) :
    (endDecode o s).cor.tmo = s.cor.tmo ∧ (endDecode o s).cor.type = s.cor.type ∧
      (endDecode o s).cor.pay = s.cor.pay := by
  cases ho : s.op with
  | none => rw [endDecode_of_idle ho]; exact ⟨rfl, rfl, rfl⟩
  | decode tmo => rw [endDecode_decode ho]; exact ⟨rfl, rfl, rfl⟩
  | execute => exact (endDecode_settled ho o).request_eq

/-- A read that a step from `s` to `t` made follows the phase and the selector, and the request stays (R48, R123 to R126, R159). -/
def ReadFollows (s t : State) (a : LinkAccess) : Prop :=
  ∀ n τ r, a = .read n τ r →
    s.decoding = true ∧
    ((s.frm.phase = .hdr ∧ n = 4) ∨ (s.frm.phase = .pay ∧ n = s.frm.len.toNat) ∨ (s.frm.phase = .ftr ∧ n = 2)) ∧
    r.length ≤ n ∧
    (∀ tmo, s.op = .decode tmo → τ = if tmo then 5 else 1) ∧
    (s.op = .execute → τ = (if s.cor.tmo then 5 else 1)) ∧
    t.cor.tmo = s.cor.tmo ∧ t.cor.type = s.cor.type ∧ t.cor.pay = s.cor.pay

/-- A read step, and what follows it in the same step, make the one read of the phase. -/
theorem readStep_readFollows {s s' t : State} {o : Option DecodeOutcome} (hd : s.decoding = true)
    (hr : readStep { s with agenda := s.agenda.tail } = some (o, s')) (hlink : t.link = s'.link)
    (hreq : t.cor.tmo = s'.cor.tmo ∧ t.cor.type = s'.cor.type ∧ t.cor.pay = s'.cor.pay) :
    ∃ a, t.link.log = s.link.log ++ [a] ∧ ReadFollows s t a := by
  obtain ⟨m, f, rfl, hsize, -⟩ := readStep_spec hr
  refine ⟨.read m (timeout s.tsel) (s.link.readBytes m), by rw [hlink]; exact Link.read_log .., ?_⟩
  rintro n τ r he
  cases he
  exact ⟨hd, hsize, Link.readBytes_length_le .., fun _ ho => timeout_tsel_of_decode ho, timeout_tsel_of_execute, hreq⟩

/-! ### One record for each operation -/

/-- From `s` to `t` no record is presented and an operation in progress stays, or one is presented and none is in progress. -/
def RecordEndsOperation (s t : State) : Prop :=
  (t.results = s.results ∧ (s.op ≠ .none → t.op = s.op)) ∨ ∃ r, t.results = s.results ++ [r] ∧ t.op = .none

theorem RecordEndsOperation.of_silent {s t : State} (hr : t.results = s.results) (ho : t.op = s.op) :
    RecordEndsOperation s t := .inl ⟨hr, fun _ => ho⟩

theorem HostRun.recordEndsOperation {s t : State} {i : Instr} (h : HostRun s i t) : RecordEndsOperation s t := by
  cases h
  case cksInit ho | cksFeed ho | cksRead ho | encode ho _ => exact .inr ⟨_, rfl, ho⟩
  case decode ho _ | execute ho _ _ _ => exact .inl ⟨rfl, fun h => absurd ho h⟩

theorem Settled.recordEndsOperation {s t : State} (h : Settled s t) : RecordEndsOperation s t := by
  cases h
  case completes | malformed | exhausted => exact .inr ⟨_, rfl, rfl⟩
  case retries => exact .of_silent rfl rfl

theorem endDecode_recordEndsOperation (o : DecodeOutcome) (s : State) : RecordEndsOperation s (endDecode o s) := by
  cases ho : s.op with
  | none => rw [endDecode_of_idle ho]; exact .of_silent rfl rfl
  | decode tmo => rw [endDecode_decode ho]; exact .inr ⟨_, rfl, rfl⟩
  | execute => exact (endDecode_settled ho o).recordEndsOperation

/-! ### A refused request -/

theorem step_of_refused_request {s : State} {w : BitVec 32} {pin : Bytes} {rest : List Event} {i : Instr} {r : Refusal}
    (ha : s.agenda = .hostRequest w pin :: rest) (hd : decodeRequest w pin = .instr i)
    (hx : exec i { s with agenda := rest } = .refused r) :
    step s = .next { s with agenda := rest, refusals := s.refusals ++ [r] } := by
  simp only [step, takeTurn, ha, hostTurn, hd, hx, settleRequest, State.recordRefusal]

theorem step_of_rejected_request {s : State} {w : BitVec 32} {pin : Bytes} {rest : List Event} {e : RequestError}
    (ha : s.agenda = .hostRequest w pin :: rest) (hd : decodeRequest w pin = .rejected e) :
    step s = .next { s with agenda := rest, refusals := s.refusals ++ [refusalOf e] } := by
  simp only [step, takeTurn, ha, hostTurn, hd, State.recordRefusal]

/-! ### The refusals in the order of R188 -/

/-- Why the block in the state `s` refuses a decoded request, if it does (R63, R122, R150, R210). -/
def State.refusalOfInstr (s : State) : Instr → Option Refusal
  | .reserved6 _ _ => some .encReservedOp
  | .reserved7 _ _ => some .encReservedOp
  | .decode _ => if s.busy then some .blkBusy else if s.cor.dead then some .corDead else none
  | .execute _ t _ =>
    if s.busy then some .blkBusy
    else if t.toInt ≤ 0 then some .corTypeNotPositive
    else if s.cor.dead then some .corDead
    else none
  | _ => if s.busy then some .blkBusy else none

/-- The first reason of R188 is the decoder's, if it rejects the request, and else that of the admission. -/
theorem refusalReason_eq (s : State) (w : BitVec 32) (pin : Bytes) :
    refusalReason s w pin =
      match decodeRequest w pin with
      | .instr i => s.refusalOfInstr i
      | .rejected e => some (refusalOf e) := by
  -- Below the reserved codes both sides ask whether the unused fields are zero; then the payload's length and the admission decide.
  rcases op_cases (opField w) with hop | hop | hop | hop | hop | hop | hop | hop
  case inr.inr.inr.inr.inr.inr.inl => simp [refusalReason, decodeRequest, hop, State.refusalOfInstr]
  case inr.inr.inr.inr.inr.inr.inr => simp [refusalReason, decodeRequest, hop, State.refusalOfInstr]
  case inr.inr.inr.inl | inr.inr.inr.inr.inr.inl =>
    by_cases hlen : pin.length ≤ Config.maxPayload <;>
      simp [refusalReason, decodeRequest, hop, hlen, Nat.not_lt.2, Nat.lt_of_not_le] <;>
      split_ifs <;> simp_all [State.refusalOfInstr, refusalOf]
  all_goals
    simp [refusalReason, decodeRequest, hop]
    split_ifs <;> simp_all [State.refusalOfInstr, refusalOf]

/-- The reason with which a meaning refuses, if it does. -/
def refusedWith : Answer State → Option Refusal
  | .next _ => none
  | .fault _ => none
  | .refused r => some r

/-- A well-formed host operation is refused at its admission or not at all. -/
theorem refusedWith_exec {s : State} {i : Instr} {P : Params} (hi : wireTypeOf P i = none) (hw : i.wf = true) :
    refusedWith (exec i s) = s.refusalOfInstr i := by
  cases i <;> simp only [wireTypeOf, reduceCtorEq] at hi
  case reserved6 | reserved7 => rfl
  case cksInit | cksFeed | cksRead =>
    simp only [exec, execCksInit, execCksFeed, execCksRead, State.whenIdle, State.refusalOfInstr]
    split_ifs <;> rfl
  case encode t p =>
    simp only [exec, execEncode, whenPayloadFits_of_le (of_decide_eq_true hw), State.whenIdle, State.refusalOfInstr]
    split_ifs <;> rfl
  case decode tmo =>
    simp only [exec, execDecode, State.whenIdle, State.whenAlive, State.refusalOfInstr]
    split_ifs <;> rfl
  case execute tmo t p =>
    simp only [exec, execExecute, whenPayloadFits_of_le (of_decide_eq_true hw), State.whenIdle, State.whenAlive,
      State.refusalOfInstr]
    split_ifs <;> rfl

theorem eq_refused_of_refusedWith {a : Answer State} {r : Refusal} (h : refusedWith a = some r) : a = .refused r := by
  cases a <;> cases h
  rfl

/-- No meaning answers a fault, so one that is not refused runs. -/
theorem exec_next_of_refusedWith {i : Instr} {s : State} (h : refusedWith (exec i s) = none) : ∃ t, exec i s = .next t := by
  cases hx : exec i s with
  | next t => exact ⟨t, rfl⟩
  | fault f => exact absurd hx (exec_ne_fault i s f)
  | refused r => simp [hx, refusedWith] at h

theorem HostRun.refusals_eq {s t : State} {i : Instr} (h : HostRun s i t) : t.refusals = s.refusals := by
  cases h <;> rfl

theorem HostRun.faultCleared_eq {s t : State} {i : Instr} (h : HostRun s i t) : t.faultCleared = s.faultCleared := by
  cases h <;> rfl

/-! ### Good runs -/

theorem Settled.refusals_eq {s t : State} (h : Settled s t) : t.refusals = s.refusals := by
  cases h <;> rfl

theorem Settled.faultCleared_eq {s t : State} (h : Settled s t) : t.faultCleared = s.faultCleared := by
  cases h <;> rfl

theorem endDecode_refusals (o : DecodeOutcome) (s : State) : (endDecode o s).refusals = s.refusals := by
  cases ho : s.op with
  | none => rw [endDecode_of_idle ho]
  | decode tmo => rw [endDecode_decode ho]
  | execute => exact (endDecode_settled ho o).refusals_eq

theorem endDecode_faultCleared (o : DecodeOutcome) (s : State) : (endDecode o s).faultCleared = s.faultCleared := by
  cases ho : s.op with
  | none => rw [endDecode_of_idle ho]
  | decode tmo => rw [endDecode_decode ho]
  | execute => exact (endDecode_settled ho o).faultCleared_eq

/-- Only a reset writes the record that the fault was cleared (log 24). -/
theorem step_faultCleared {s t : State} (h : step s = .next t) (hr : s.resetComes = false) :
    t.faultCleared = s.faultCleared := by
  cases step_cases h
  case waits | sends | refuses | delivers => rfl
  case reads hs =>
    obtain ⟨l, f, rfl⟩ := readStep_frame hs
    rfl
  case ends hs =>
    obtain ⟨l, f, rfl⟩ := readStep_frame hs
    exact endDecode_faultCleared ..
  case runs hrun => exact hrun.faultCleared_eq
  case resets rest ha => simp [State.resetComes_iff.2 ⟨rest, ha⟩] at hr

theorem FlagsFollowRecord.faultReached_iff {s t : State} (h : FlagsFollowRecord s t)
    (hc : t.faultCleared = s.faultCleared) :
    t.faultReached = true ↔ s.faultReached = true ∨ ∃ p, t.results = s.results ++ [.malformedFailure p] := by
  obtain ⟨_ | r, hr, -, hf⟩ := h
  · simp [State.faultReached, hr, hf, hc]
  · simp [State.faultReached, hr, hf, hc, Result.setsFault_iff, or_right_comm]

/-- The run reaches its fault in the step that presents `MalformedFailure`, and no step forgets it (R183; log 24). -/
theorem step_faultReached_iff {s t : State} (h : step s = .next t) :
    t.faultReached = true ↔ s.faultReached = true ∨ ∃ p, t.results = s.results ++ [.malformedFailure p] := by
  cases hr : s.resetComes with
  | false => exact (step_flagsFollowRecord h hr).faultReached_iff (step_faultCleared h hr)
  | true =>
    obtain ⟨rest, ha⟩ := State.resetComes_iff.1 hr
    rw [step_of_resetPulse ha] at h
    cases h
    simp [State.faultReached]

/-- A step records at most one refusal. -/
theorem step_refusals {s t : State} (h : step s = .next t) :
    t.refusals = s.refusals ∨ ∃ r, t.refusals = s.refusals ++ [r] := by
  cases step_cases h
  case waits | sends | delivers | resets => exact .inl rfl
  case reads hs =>
    obtain ⟨l, f, rfl⟩ := readStep_frame hs
    exact .inl rfl
  case ends hs =>
    obtain ⟨l, f, rfl⟩ := readStep_frame hs
    exact .inl (endDecode_refusals ..)
  case runs hrun => exact .inl hrun.refusals_eq
  case refuses r _ => exact .inr ⟨r, rfl⟩

theorem State.good_iff {s : State} : s.good = true ↔ s.faultReached = false ∧ s.refusals = [] := by
  simp [State.good]

theorem State.good_eq_false_of_faultReached {s : State} (h : s.faultReached = true) : s.good = false := by
  simp [State.good, h]

theorem runTurns_faultReached {n : Nat} {s u : State} (hs : s.faultReached = true) (h : runTurns n s = .next u) :
    u.faultReached = true := by
  induction n generalizing s with
  | zero =>
    cases h
    exact hs
  | succ n ih =>
    cases ht : step s with
    | next t =>
      rw [runTurns_of_step ht] at h
      exact ih ((step_faultReached_iff ht).2 (.inl hs)) h
    | fault | refused => simp [runTurns, ht] at h

end Sys2Proof.Machine

/-! ### The obligations -/

namespace Sys2Proof

open Sys2Proof.Machine

/-- Settles O27: the type decides by equality, and the attempts made so far decide on a transient outcome. -/
theorem wireTypeInExecuteIsClassifiedByEquality : Obligations.WireTypeInExecuteIsClassifiedByEquality := by
  intro i t s h ho
  rw [exec_wire_of_execute h ho]
  refine ⟨fun ht => ?_, fun ht hf => ?_, fun ht hf => ?_⟩
  · rw [respond_of_match ht]
    rfl
  · rw [respond_of_failed ht hf]
    refine ⟨fun b0 b1 b2 b3 hb => ?_, fun hl => by rw [failedResponse_of_other hl]⟩
    rw [hb, failedResponse_of_four]
    rfl
  · rw [respond_of_unrelated ht hf]
    exact ⟨fun hatt => by rw [transient_retries hatt], fun hatt => by rw [transient_exhausts hatt]⟩

/-- Settles O31: the read of the phase, and no access but the send step's in any other step. -/
theorem readsFollowThePhaseAndTheSelectedTimeout : Obligations.ReadsFollowThePhaseAndTheSelectedTimeout := by
  intro s t h
  cases step_cases h
  case waits | refuses | delivers | resets => exact .inl rfl
  case sends => exact .inr ⟨_, rfl, by simp⟩
  case reads hd hr => exact .inr (readStep_readFollows hd hr rfl ⟨rfl, rfl, rfl⟩)
  case ends hd hr => exact .inr (readStep_readFollows hd hr (endDecode_link ..) (endDecode_request_eq ..))
  case runs hrun => exact .inl (by rw [hrun.link_eq])

/-- Settles O34: the operations that present a record end with it. -/
theorem eachCompletionPresentsOneRecord : Obligations.EachCompletionPresentsOneRecord := by
  intro s t h hr
  show RecordEndsOperation s t
  cases step_cases h
  case waits | sends | refuses | delivers => exact .of_silent rfl rfl
  case reads hs =>
    obtain ⟨l, f, rfl⟩ := readStep_frame hs
    exact .of_silent rfl rfl
  case ends o s' _ _ hs =>
    obtain ⟨l, f, rfl⟩ := readStep_frame hs
    exact endDecode_recordEndsOperation o _
  case runs hrun => exact hrun.recordEndsOperation
  case resets rest ha => simp [State.resetComes_iff.2 ⟨rest, ha⟩] at hr

/-- Settles O36: R188's first reason is the decoder's or the admission's; where there is neither, the request runs. -/
theorem refusedRequestChangesNothingAndIsRecorded : Obligations.RefusedRequestChangesNothingAndIsRecorded := by
  intro s w pin rest ha
  rw [show refusalReason s w pin = refusalReason { s with agenda := rest } w pin from rfl, refusalReason_eq]
  cases hd : decodeRequest w pin with
  | rejected e =>
    refine ⟨fun r hr => ?_, fun hr => by cases hr⟩
    cases hr
    exact step_of_rejected_request ha hd
  | instr i =>
    have hadmit := refusedWith_exec (s := { s with agenda := rest }) (decodeRequest_is_host hd s.params) (decodeRequest_wf hd)
    simp only [← hadmit]
    refine ⟨fun r hr => step_of_refused_request ha hd (eq_refused_of_refusedWith hr), fun hr => ?_⟩
    obtain ⟨t, ht⟩ := exec_next_of_refusedWith hr
    exact ⟨i, t, rfl, ht, step_of_request ha hd ht,
      (exec_host_cases (s := { s with agenda := rest }) (decodeRequest_is_host hd s.params) ht).refusals_eq⟩

/-- Settles O44: a step reaches the fault by its record alone, and records a refusal or none. -/
theorem goodStatesComeOnlyFromGoodStates : Obligations.GoodStatesComeOnlyFromGoodStates := by
  intro s t h
  have hf := not_congr (step_faultReached_iff h)
  simp only [not_or, not_exists, Bool.not_eq_true] at hf
  rw [State.good_iff, State.good_iff, hf]
  obtain hr | ⟨r, hr⟩ := step_refusals h
  · simp [hr, and_right_comm]
  · simp [hr]

/-- Settles O56: no turn forgets that the fault was reached. -/
theorem runThatReachesTheFaultIsNeverGood : Obligations.RunThatReachesTheFaultIsNeverGood := by
  refine ⟨fun n s u hs h => ?_, fun n s t u p ht hp h => ?_⟩
  · have hreached : s.faultReached = true := by simp [State.faultReached, hs]
    exact State.good_eq_false_of_faultReached (runTurns_faultReached hreached h)
  · have hreached : t.faultReached = true := (step_faultReached_iff ht).2 (.inr ⟨p, hp⟩)
    exact State.good_eq_false_of_faultReached (runTurns_faultReached hreached h)

/-- Settles O26: the end of the decode presents the packet. -/
theorem wireTypeInDecodePresentsItsPacket : Obligations.WireTypeInDecodePresentsItsPacket := by
  intro i t s tmo h ho
  rw [exec_wire h, endDecode_decode ho]
  rfl

/-- Settles O28: under each link model. -/
theorem linkReadConsumesWhatItReturns : Obligations.LinkReadConsumesWhatItReturns := by
  intro l n t
  refine ⟨Link.readBytes_length_le l n, Link.read_tx .., Link.read_model .., fun h => ?_, fun h => ?_⟩
  · exact ⟨Link.readBytes_append_read_rx h n t, Link.readBytes_length_reference h n⟩
  · exact ⟨by simp [Link.readBytes, h], Link.read_rx_abstract h n t, by simp [Link.read, h]⟩

/-- Settles O38: the table, line by line. -/
theorem resultCodesFollowTheTable : Obligations.ResultCodesFollowTheTable :=
  ⟨rfl, fun _ => rfl, fun _ => rfl, fun _ _ => rfl, fun _ => rfl, rfl, rfl, rfl, rfl, fun _ => rfl, rfl, fun _ => rfl⟩

/-- Settles O45: the request runs, or its refusal is recorded. -/
theorem stepRunsTheDecodedRequest : Obligations.StepRunsTheDecodedRequest :=
  fun _ _ _ _ _ ha hd => ⟨fun _ hx => step_of_request ha hd hx, fun _ hx => step_of_refused_request ha hd hx⟩

/-- Settles O46: running the row is ending the decode with a packet of its type. -/
theorem stepRunsTheDecodedWireType : Obligations.StepRunsTheDecodedWireType := by
  intro s s' t p i hb hd hr hi
  have hparams : s'.params = s.params := by
    obtain ⟨l, f, rfl⟩ := readStep_frame hr
    rfl
  have hbuf : s'.frm.buf = p := by
    obtain ⟨n, f, rfl, -, -, -, hpacket⟩ := readStep_spec hr
    exact (hpacket t p rfl).2
  have hrow := exec_wire (s := { s' with agenda := s.agenda.tail }) (i := i) (t := t)
    (by rw [hparams]; exact decodeWireType_value hi)
  rw [step_of_decoding hb hd hr, hrow, hbuf]
  rfl

/-- Settles O47: the block's turn with no operation in progress, and the device's turn. -/
theorem turnsFollowTheAgenda : Obligations.TurnsFollowTheAgenda :=
  ⟨fun _ hb ho => step_of_waiting hb ho, fun s bytes rest ha => by rw [step, takeTurn, ha]; rfl⟩

end Sys2Proof
end
